-- ==== Sys2Proof/Word.lean ====
section
/-! DEFINITION. The word types of the SonicBlit sequencer core (00_scope.md section 6): every value is unsigned. -/

namespace Sys2Proof

/-- One byte of the image. -/
abbrev Byte := BitVec 8

/-- A 16-bit value (`u16` of 00_scope.md section 6): operands, channels, amplitudes, counts. -/
abbrev U16 := BitVec 16

/-- A 32-bit time value in milliseconds (`TICK_W` of R7). -/
abbrev U32 := BitVec 32

end Sys2Proof
end

