-- ==== Sys2Proof/Config.lean ====
section
/-! DEFINITION. The implementation parameters and the named constants of 00_scope.md R7. -/

namespace Sys2Proof

/-- `LAYOUT` (R7): the record layout of the image. -/
inductive Layout where
  /-- "packed, no padding": the normative column of R43 and R46. -/
  | packed
  /-- The alternative column of R43 and R46: one pad byte after each `u8`. -/
  | aligned
  deriving DecidableEq, Repr

/-- One value of the parameter function `sus_amp`: the amplitude `amp` for a voice with this `sustain_level` and `volume`. -/
structure SusPoint where
  level : U16
  volume : U16
  amp : U16
  deriving DecidableEq, Repr

/-- The open parameters of R7 (and `SUPPORTED_VERSION` of R45): fixed for one machine, any value in a claim. -/
structure Params where
  /-- `LAYOUT`. -/
  layout : Layout
  /-- `STEP_CAP`, at least 1: the most commands one `update` dispatches (R79). -/
  stepCap : Nat
  /-- `N_CHANNELS`, 1 to 65536: how many local channels own a note slot (R27). -/
  nChannels : Nat
  /-- `sus_amp` (R102), a function: the points where it differs from its default `min(sustain_level, volume)`. The arguments are 16
  bits each, so every function into `0 .. volume` is such a list (DESIGN CHOICE, log entry 10). -/
  susAmp : List SusPoint
  /-- `SUPPORTED_VERSION` (R45): when set, a successful `load` of another version is refused. -/
  supportedVersion : Option Byte
  deriving DecidableEq, Repr

/-- The values R7 gives as this hardware's own or as defaults. -/
def Params.default : Params where
  layout := .packed
  stepCap := 16
  nChannels := 65536
  susAmp := []
  supportedVersion := none

/-- `OPC_NOP` (R63). -/
abbrev opcNop : Nat := 0
/-- `OPC_SET_CHANNEL` (R63). -/
abbrev opcSetChannel : Nat := 1
/-- `OPC_SET_VOICE` (R63). -/
abbrev opcSetVoice : Nat := 2
/-- `OPC_PLAY` (R63). -/
abbrev opcPlay : Nat := 3
/-- `OPC_WAIT` (R63; the number is the spec's decision D3). -/
abbrev opcWait : Nat := 4
/-- `OPCODE_MAX` (R63): the smallest opcode value that names no command. -/
abbrev opcodeMax : Nat := 5

/-- `HEADER_BYTES` (R7, R41). -/
abbrev headerBytes : Nat := 6

/-- `MAGIC` (R41): the bytes of `BEAM`, in image order. -/
def magic : List Byte := [0x42#8, 0x45#8, 0x41#8, 0x4D#8]

/-- `TICK_LIMIT` (R7, R140): the exclusive upper bound of an admissible tick, 2^32 - 2^16. -/
abbrev tickLimit : Nat := 4294901760

end Sys2Proof
end

