-- ==== Sys2Proof/Syntax.lean ====
section
/-! DEFINITION. The command set: one constructor per row of spec/opcode_table.json (R63, R69). -/

namespace Sys2Proof

/-- A decoded command. R69 names six cases; the bits a command ignores (the operand of `NOP` and of an unknown
opcode) are kept, which R69 advises for a round-trip law (DESIGN CHOICE, log entry 15). -/
inductive Instr where
  /-- `NOP` (R82), with the operand it ignores. -/
  | nop (operand : U16)
  /-- `SET_CHANNEL x` (R83). -/
  | setChannel (x : U16)
  /-- `SET_VOICE x` (R84). -/
  | setVoice (x : U16)
  /-- `PLAY x` (R85). -/
  | play (x : U16)
  /-- `WAIT x` (R86). -/
  | wait (x : U16)
  /-- A reserved opcode, 5 to 255 (R64, R87), with the operand it ignores. -/
  | unknown (opcode : Byte) (operand : U16)
  deriving DecidableEq, Repr

end Sys2Proof
end

