-- ==== Sys2Proof/WellFormed.lean ====
section
/-! DEFINITION. Which terms of `Instr` are commands: an unknown opcode is one that names no command (R64). -/

namespace Sys2Proof

/-- `OPCODE_MAX <= opcode` (R64, R87): the one check a term can fail. Every 16-bit operand is legal (R62). -/
def Instr.wf : Instr → Bool
  | .nop _ => true
  | .setChannel _ => true
  | .setVoice _ => true
  | .play _ => true
  | .wait _ => true
  | .unknown opcode _ => decide (opcodeMax ≤ opcode.toNat)

end Sys2Proof
end

