-- ==== Sys2Proof/Decode.lean ====
section
/-! DEFINITION. The decoder and the encoder of 30_encoding.md. Decoding is total (R64, R69): every record of full length is a
command; only a list of bytes too short to hold a record is rejected, by name. -/

namespace Sys2Proof

/-- Why a list of bytes is no command. -/
inductive DecodeError where
  /-- Fewer bytes than one record of the layout (`CMD_BYTES`, R46). -/
  | shortRecord
  deriving DecidableEq, Repr

/-- Two bytes as an unsigned 16-bit value, the byte at the lower offset less significant (R47, R62). -/
def le16 (lo hi : Byte) : U16 := hi ++ lo

/-- Bits 7:0 of a 16-bit value. -/
def loByte (x : U16) : Byte := x.extractLsb' 0 8

/-- Bits 15:8 of a 16-bit value. -/
def hiByte (x : U16) : Byte := x.extractLsb' 8 8

/-- `CMD_BYTES` (R7, R46). -/
def cmdBytes : Layout → Nat
  | .packed => 3
  | .aligned => 4

/-- `operand_offset` (R46, R80): where the operand lies inside a command record. -/
def operandOffset : Layout → Nat
  | .packed => 1
  | .aligned => 2

/-- The command an opcode byte and an operand stand for: the opcode byte alone selects it (R61, R63, R69, R81). -/
def instrOf (opcode : Byte) (operand : U16) : Instr :=
  if opcode.toNat = opcNop then .nop operand
  else if opcode.toNat = opcSetChannel then .setChannel operand
  else if opcode.toNat = opcSetVoice then .setVoice operand
  else if opcode.toNat = opcPlay then .play operand
  else if opcode.toNat = opcWait then .wait operand
  else .unknown opcode operand

/-- Read one command record from the front of a list of bytes (R46, R60), with the bytes that follow it. -/
def decode : Layout → List Byte → Except DecodeError (Instr × List Byte)
  | .packed, opcode :: b1 :: b2 :: rest => .ok (instrOf opcode (le16 b1 b2), rest)
  | .aligned, opcode :: _ :: b1 :: b2 :: rest => .ok (instrOf opcode (le16 b1 b2), rest)
  | _, _ => .error .shortRecord

/-- The opcode byte of a command (R63). -/
def opcodeOf : Instr → Byte
  | .nop _ => BitVec.ofNat 8 opcNop
  | .setChannel _ => BitVec.ofNat 8 opcSetChannel
  | .setVoice _ => BitVec.ofNat 8 opcSetVoice
  | .play _ => BitVec.ofNat 8 opcPlay
  | .wait _ => BitVec.ofNat 8 opcWait
  | .unknown opcode _ => opcode

/-- The operand bits of a command, ignored ones included (R62). -/
def operandOf : Instr → U16
  | .nop x => x
  | .setChannel x => x
  | .setVoice x => x
  | .play x => x
  | .wait x => x
  | .unknown _ x => x

/-- The bytes of one record made of an opcode byte and an operand (R46, R60); the pad byte of `ALIGNED` is written as 0. -/
def encodeFields : Layout → Byte → U16 → List Byte
  | .packed, opcode, x => [opcode, loByte x, hiByte x]
  | .aligned, opcode, x => [opcode, 0#8, loByte x, hiByte x]

/-- The record of a command (R60, R63). -/
def encode (lay : Layout) (i : Instr) : List Byte := encodeFields lay (opcodeOf i) (operandOf i)

/-- The opcode byte of a 24-bit word `W` numbered as spec/opcode_table.json numbers it: `W[7:0]` (R60). -/
def tableOpcode (nbits w : Nat) : Byte := BitVec.ofNat 8 (w % 2 ^ nbits)

/-- The operand of such a word: `W[23:8]` (R60). -/
def tableOperand (nbits w : Nat) : U16 := BitVec.ofNat 16 (w % 2 ^ nbits / 256)

/-- The bytes of such a word as the hardware stores them, in the given layout (R60). -/
def tableBytes (lay : Layout) (nbits w : Nat) : List Byte :=
  encodeFields lay (tableOpcode nbits w) (tableOperand nbits w)

/-- The command the decoder reads from a word of spec/opcode_table.json (24 bits, `PACKED`; bits above `nbits` are 0). -/
def decodeTableWord (nbits w : Nat) : Option Instr :=
  match decode .packed (tableBytes .packed nbits w) with
  | .ok (i, _) => some i
  | .error _ => none

end Sys2Proof
end

