-- ==== Sys2Proof/Machine/State.lean ====
section
/-! DEFINITION. The state of one instance (10_state.md R10), plain data, and its reset value (R30). The model's own fields
(`lastTick`, `inbox`, `result`, `events`, `log`) stand last; R29 calls them a ghost, inputs and outputs. -/

namespace Sys2Proof.Machine

/-- The hardware has errors but no traps: "Run-time errors do not trap" (R154), and no rule gives the block a fault, so
no step ends in one (DEDUCED, log entry 21; safe). -/
inductive Fault
  deriving DecidableEq, Repr

/-- Situations to which the spec gives no meaning (its word is "refuse", 00_scope.md section 6). Every one is safe: the model
stops where a claim would need a value the spec does not give. -/
inductive Refusal where
  /-- Raised by an arm of `exec` without a meaning: none is left. -/
  | notModelled (mnemonic : String)
  /-- Raised by `update`: the host broke its duty on ticks, a tick below an earlier one or at or beyond `TICK_LIMIT`
  (R140, R179). Safe. -/
  | tickDuty
  /-- Raised by `update` in a state no run reaches: the tick gives no engine time at or after `now` (R140, R161). Safe. -/
  | engineTime
  /-- Raised by a read of an image byte that does not exist (R49): no run reaches it. Safe. -/
  | imageOutOfRange
  /-- Raised by a fetch at or beyond `command_count` (R80): no run reaches it. Safe. -/
  | fetchOutOfRange
  /-- Raised by a read of a voice at or beyond `voice_count`, the `IndexOutOfRange` of R157: no run reaches it. Safe. -/
  | indexOutOfRange
  /-- Raised by the envelope of a note that starts, or was released, after the engine time asked about (R104, R161): no run
  reaches it. Safe. -/
  | elapsedTime
  /-- Raised by a command at `pc = 65535`, where `pc + 1` would not fit (R88): no run reaches it. Safe. -/
  | pcOverflow
  /-- Raised by `WAIT` where `et + x` would not fit in 32 bits (R18, R161): no run reaches it. Safe. -/
  | dueOverflow
  /-- Raised by `load` of an image of another version when the optional parameter `SUPPORTED_VERSION` is set (R45). Safe. -/
  | unsupportedVersion
  deriving DecidableEq, Repr

/-- What a step or a part of one answers. -/
abbrev Res (α : Type) := Host.Outcome α Fault Refusal

/-- The envelope phases (R121). -/
inductive Phase where
  | attack
  | decay
  | sustain
  | release
  /-- Never stored in a note: the note is destroyed instead (R27). -/
  | done
  deriving DecidableEq, Repr

/-- The error codes of R150. -/
inductive ErrorCode where
  | ok
  | invalidMagic
  | truncatedBuffer
  | invalidVoiceIndex
  | unknownOpcode
  /-- Never raised (R157). -/
  | indexOutOfRange
  /-- Added by the spec; only with `N_CHANNELS < 65536` (R158). -/
  | invalidChannel
  deriving DecidableEq, Repr

/-- A note record (R27). Its channel is its key in the table. -/
structure Note where
  /-- Index of the voice, a copy of `cur_voice`. -/
  voice : Byte
  /-- The note identifier, opaque. -/
  note : U16
  /-- Engine time of the update that created it. -/
  start : U32
  /-- Engine time of the accepted note-off, or none. -/
  off : Option U32
  /-- Amplitude when the note-off was accepted. -/
  relAmp : U16
  /-- Phase as of the last ENV pass. -/
  phase : Phase
  /-- Amplitude computed by the last ENV pass. -/
  amp : U16
  deriving DecidableEq, Repr

/-- The image: its bytes with their offsets, offsets strictly rising. An offset that is not listed has no byte (R49; log entry 8). -/
abbrev Memory := List Host.Cell

/-- The Active Note table (R27): the occupied slots with their local channel, channels strictly rising. A channel that is not
listed has no note. -/
abbrev NoteTable := List (Nat × Note)

/-- One tuple of the `events` output (R120). -/
structure Event where
  /-- `channel_offset + c`, 17 bits, never truncated. -/
  chanOut : BitVec 17
  voice : Byte
  note : U16
  amp : U16
  phase : Phase
  deriving DecidableEq, Repr

/-- One pair of the `log` output (R155). -/
structure LogEntry where
  /-- The index of the command that raised the error. -/
  index : U16
  error : ErrorCode
  deriving DecidableEq, Repr

/-- A host operation with its arguments (R6, R130). -/
inductive HostOp where
  /-- `construct(channel_offset, optional buffer)` (R131). -/
  | construct (offset : U16) (buffer : Option (List Byte))
  /-- `load(buffer)` (R132). -/
  | load (buffer : List Byte)
  /-- `start()` (R133). -/
  | start
  /-- `pause()` (R134). -/
  | pause
  /-- `stop()` (R135). -/
  | stop
  /-- `update(tick)` (R136). -/
  | update (tick : U32)
  /-- `is_running()` (R137). -/
  | isRunning
  /-- `is_paused()` (R138). -/
  | isPaused
  deriving DecidableEq, Repr

/-- The result of a host operation (R142): the code of `load` (R132) or a boolean. `construct` has none. -/
inductive Reply where
  | code (c : ErrorCode)
  | bool (b : Bool)
  deriving DecidableEq, Repr

/-- The complete state of one instance (R10), its parameters (R7), and the model's own fields. -/
structure State where
  /-- The parameters of R7, fixed for the machine. -/
  params : Params
  /-- R11. -/
  loaded : Bool
  /-- R12: index of the next command. -/
  pc : U16
  /-- R13. -/
  running : Bool
  /-- R16. -/
  curChannel : U16
  /-- R17. -/
  curVoice : Byte
  /-- R18: engine time at or after which the command at `pc` may execute. -/
  due : U32
  /-- R19: engine time of the most recent effective update. -/
  now : U32
  /-- R20: host time that has passed while Paused. -/
  skew : U32
  /-- R21. -/
  resync : Bool
  /-- R22. -/
  channelOffset : U16
  /-- R23. -/
  version : Byte
  /-- R23. -/
  voiceCount : Byte
  /-- R23. -/
  commandCount : U16
  /-- R25, 20_memory.md: the image captured at load. -/
  image : Memory
  /-- R27. -/
  notes : NoteTable
  /-- The ghost `last_tick` of R29: the tick of the last update of any kind since the last construct. Log entry 4. -/
  lastTick : U32
  /-- The host operations still to come, the next one first. Log entry 2. -/
  inbox : List HostOp
  /-- The result of the last host operation. Log entry 3. -/
  result : Option Reply
  /-- The events output of the last host operation (R120). Log entry 3. -/
  events : List Event
  /-- The log output of the last host operation (R155). Log entry 3. -/
  log : List LogEntry
  deriving DecidableEq, Repr

/-- The state after `construct` without a buffer (R30, R170). `channelOffset` is the argument of `construct`; the spec gives no
value for it, and 0 stands here (DESIGN CHOICE, log entry 5). -/
def State.reset : State where
  params := Params.default
  loaded := false
  pc := 0
  running := false
  curChannel := 0
  curVoice := 0
  due := 0
  now := 0
  skew := 0
  resync := false
  channelOffset := 0
  version := 0
  voiceCount := 0
  commandCount := 0
  image := []
  notes := []
  lastTick := 0
  inbox := []
  result := none
  events := []
  log := []

end Sys2Proof.Machine
end

