-- ==== Sys2Proof/Machine/Ops.lean ====
section
/-! DEFINITION. The operations the meanings share: sequencing of outcomes, the image and the note table as sorted lists, the
advance of `pc` (R88), and raising a run-time error (R154). -/

namespace Sys2Proof.Machine

/-- Run `f` on the answer of `o`; a stop stays that stop. -/
def andThen {α β : Type} (o : Res α) (f : α → Res β) : Res β :=
  match o with
  | .next a => f a
  | .fault r => .fault r
  | .refused r => .refused r

/-- An answer, or a refusal where there is none. -/
def orRefuse {α : Type} (o : Option α) (r : Refusal) : Res α :=
  match o with
  | some a => .next a
  | none => .refused r

/-! ### One register at a time. Every update of the state in the machine goes through these, so a state stays a short term. -/

/-- `pc <- v`. -/
def State.setPc (s : State) (v : U16) : State := { s with pc := v }
/-- `cur_channel <- v`. -/
def State.setCurChannel (s : State) (v : U16) : State := { s with curChannel := v }
/-- `cur_voice <- v`. -/
def State.setCurVoice (s : State) (v : Byte) : State := { s with curVoice := v }
/-- `due <- v`. -/
def State.setDue (s : State) (v : U32) : State := { s with due := v }
/-- `now <- v`. -/
def State.setNow (s : State) (v : U32) : State := { s with now := v }
/-- `skew <- v ; resync <- 0` (R141). -/
def State.rebase (s : State) (v : U32) : State := { s with skew := v, resync := false }
/-- The note table becomes `t`. -/
def State.setNotes (s : State) (t : NoteTable) : State := { s with notes := t }
/-- The outcome of an ENV pass: its events, and the notes it leaves. -/
def State.setPass (s : State) (out : List Event × NoteTable) : State := { s with events := out.1, notes := out.2 }
/-- The ghost `last_tick`. -/
def State.setLastTick (s : State) (v : U32) : State := { s with lastTick := v }
/-- The operations still to come. -/
def State.setInbox (s : State) (ops : List HostOp) : State := { s with inbox := ops }
/-- The log output. -/
def State.setLog (s : State) (l : List LogEntry) : State := { s with log := l }
/-- The result output. -/
def State.setResult (s : State) (r : Option Reply) : State := { s with result := r }

/-! ### Sorted lists of key and value -/

/-- Keys strictly rising: the one canonical form. -/
def keysRise {α : Type} : List (Nat × α) → Bool
  | [] => true
  | (k, _) :: l => l.all (fun c => decide (k < c.1)) && keysRise l

/-- The value at a key. -/
def lookupKey {α : Type} (k : Nat) : List (Nat × α) → Option α
  | [] => none
  | (a, v) :: l => if a = k then some v else lookupKey k l

/-- Write a value at a key, keeping the order. -/
def insertKey {α : Type} (k : Nat) (v : α) : List (Nat × α) → List (Nat × α)
  | [] => [(k, v)]
  | (a, w) :: l => if k < a then (k, v) :: (a, w) :: l else if k = a then (k, v) :: l else (a, w) :: insertKey k v l

/-! ### The image (20_memory.md) -/

/-- The canonical form of an image: offsets strictly rising. (An unlisted offset reads as no byte, so no entry can equal it.) -/
abbrev Memory.wf (m : Memory) : Bool := keysRise m

/-- The byte at an offset of the image, if there is one (R47, R49). -/
def Memory.read (m : Memory) (a : Nat) : Option Byte := lookupKey a m

/-- Put a byte at an offset. No rule of the spec writes the image (R50): only `State.withFetchWord` uses this. -/
def Memory.put (m : Memory) (a : Nat) (b : Byte) : Memory := insertKey a b m

/-- Put bytes at consecutive offsets. Only `State.withFetchWord` uses this. -/
def Memory.putAll (m : Memory) (a : Nat) : List Byte → Memory
  | [] => m
  | b :: bs => (m.put a b).putAll (a + 1) bs

/-- The bytes of a buffer with their offsets, from a first offset on. -/
def Memory.ofBytesAt (a : Nat) : List Byte → Memory
  | [] => []
  | b :: bs => (a, b) :: Memory.ofBytesAt (a + 1) bs

/-- The image of a buffer: `image <- buffer[0 .. len-1]` (R44). -/
def Memory.ofBytes (bs : List Byte) : Memory := Memory.ofBytesAt 0 bs

/-- `n` consecutive bytes from an offset on, if all exist. -/
def Memory.readBytes (m : Memory) (a : Nat) : Nat → Option (List Byte)
  | 0 => some []
  | n + 1 =>
    match m.read a, m.readBytes (a + 1) n with
    | some b, some bs => some (b :: bs)
    | _, _ => none

/-- `MemRead(addr, 1)` (R47). -/
def memRead8 (m : Memory) (a : Nat) : Res Byte := orRefuse (m.read a) .imageOutOfRange

/-- `MemRead(addr, 2)` (R47): little-endian, at any alignment (R48). -/
def memRead16 (m : Memory) (a : Nat) : Res U16 :=
  andThen (memRead8 m a) fun lo => andThen (memRead8 m (a + 1)) fun hi => .next (le16 lo hi)

/-! ### The Active Note table (R27) -/

/-- The canonical form of a note table: channels strictly rising. -/
abbrev NoteTable.wf (t : NoteTable) : Bool := keysRise t

/-- `note[c]` (00_scope.md section 6). -/
def NoteTable.get (t : NoteTable) (c : Nat) : Option Note := lookupKey c t

/-- `note[c] <- r`: create or replace (R117). -/
def NoteTable.set (t : NoteTable) (c : Nat) (r : Note) : NoteTable := insertKey c r t

/-! ### The end of every command, run-time errors and replies -/

/-- `pc <- pc + 1` (R88), refused where it would not fit in 16 bits (no run reaches that: log entry 7). -/
def State.advance (s : State) : Res State :=
  if s.pc.toNat + 1 < 65536 then .next (s.setPc (s.pc + 1)) else .refused .pcOverflow

/-- `raise E(pc)` (R154): append the pair to the log of the current update and go on. This is all that taking a run-time
error does: no state is saved, no mode changes, control goes on with the next line. -/
def State.raise (s : State) (e : ErrorCode) : State := s.setLog (s.log ++ [⟨s.pc, e⟩])

/-- Hand a result and empty outputs to the host: every operation but an effective `update` has no events and no log (R120). -/
def State.reply (s : State) (r : Option Reply) : State := { s with result := r, events := [], log := [] }

end Sys2Proof.Machine
end

