-- ==== Sys2Proof/Machine/Operands.lean ====
section
/-! DEFINITION. Where things lie in the image (R24, R41 to R43, R46) and the reads made through an index: command fetch (R80)
and voice fields (R25, R43). The operand of a command is its 16 bits unchanged (R62); `voiceInRange` is the one comparison on it. -/

namespace Sys2Proof.Machine

/-- `VOICE_BYTES` (R7, R43). -/
def voiceBytes : Layout → Nat
  | .packed => 15
  | .aligned => 16

/-- The fields of a Voice record (R25). -/
inductive VoiceField where
  | waveforms
  | volume
  | attackMs
  | decayMs
  | sustainLevel
  | sustainMs
  | releaseMs
  | pulseWidth
  deriving DecidableEq, Repr

/-- The offset of a field inside a Voice record (the two columns of R43). -/
def voiceFieldOffset : Layout → VoiceField → Nat
  | .packed, .waveforms => 0
  | .packed, .volume => 1
  | .packed, .attackMs => 3
  | .packed, .decayMs => 5
  | .packed, .sustainLevel => 7
  | .packed, .sustainMs => 9
  | .packed, .releaseMs => 11
  | .packed, .pulseWidth => 13
  | .aligned, .waveforms => 0
  | .aligned, .volume => 2
  | .aligned, .attackMs => 4
  | .aligned, .decayMs => 6
  | .aligned, .sustainLevel => 8
  | .aligned, .sustainMs => 10
  | .aligned, .releaseMs => 12
  | .aligned, .pulseWidth => 14

/-- `VB`: the first byte of the voice table (R24). -/
def voiceBase : Nat := headerBytes

/-- `X = 6 + voice_count * VOICE_BYTES`: where `command_count` lies (R24, R42). -/
def countOffset (lay : Layout) (voices : Nat) : Nat := headerBytes + voices * voiceBytes lay

/-- `CB = X + 2`: the first byte of the command table (R24, R42). -/
def commandBase (lay : Layout) (voices : Nat) : Nat := countOffset lay voices + 2

/-- `CB + command_count * CMD_BYTES`: the least length of a well-formed image (R42). -/
def imageEnd (lay : Layout) (voices commands : Nat) : Nat := commandBase lay voices + commands * cmdBytes lay

/-- `MAX_IMAGE_BYTES` (R7): the length of the largest well-formed image. -/
def maxImageBytes (lay : Layout) : Nat := imageEnd lay 255 65535

/-- Where command `i` lies (R42, R46). -/
def State.commandOffset (s : State) (i : Nat) : Nat :=
  commandBase s.params.layout s.voiceCount.toNat + cmdBytes s.params.layout * i

/-- Where field `f` of voice `i` lies (R43). -/
def State.voiceOffset (s : State) (i : Nat) (f : VoiceField) : Nat :=
  voiceBase + voiceBytes s.params.layout * i + voiceFieldOffset s.params.layout f

/-- `fetch(i)` and the dispatch on what it returns (R80, R81): the opcode byte and the operand are two accesses (R46, R47).
A fetch outside `0 <= i < command_count` is refused (R80's precondition; no run reaches it). -/
def State.fetch (s : State) (i : U16) : Res Instr :=
  if i.toNat < s.commandCount.toNat then
    andThen (memRead8 s.image (s.commandOffset i.toNat)) fun opcode =>
      andThen (memRead16 s.image (s.commandOffset i.toNat + operandOffset s.params.layout)) fun operand =>
        .next (instrOf opcode operand)
  else .refused .fetchOutOfRange

/-- `voice[i].f` for a 16-bit field (R43). -/
def State.voiceField (s : State) (i : Byte) (f : VoiceField) : Res U16 := memRead16 s.image (s.voiceOffset i.toNat f)

/-- `x < voice_count`, on all 16 bits of the operand (R62, R84). -/
def State.voiceInRange (s : State) (x : U16) : Bool := decide (x.toNat < s.voiceCount.toNat)

/-- A Voice record (R25). -/
structure Voice where
  waveforms : Byte
  volume : U16
  attackMs : U16
  decayMs : U16
  sustainLevel : U16
  sustainMs : U16
  releaseMs : U16
  pulseWidth : U16
  deriving DecidableEq, Repr

/-- `voice_at(i)` (R25): the whole record, as the sink may read it through an event's index (R26). An index that names no
voice is the `IndexOutOfRange` of R157 and is refused. -/
def State.voiceAt (s : State) (i : Byte) : Res Voice :=
  if i.toNat < s.voiceCount.toNat then
    andThen (memRead8 s.image (s.voiceOffset i.toNat .waveforms)) fun waveforms =>
    andThen (s.voiceField i .volume) fun volume =>
    andThen (s.voiceField i .attackMs) fun attackMs =>
    andThen (s.voiceField i .decayMs) fun decayMs =>
    andThen (s.voiceField i .sustainLevel) fun sustainLevel =>
    andThen (s.voiceField i .sustainMs) fun sustainMs =>
    andThen (s.voiceField i .releaseMs) fun releaseMs =>
    andThen (s.voiceField i .pulseWidth) fun pulseWidth =>
    .next ⟨waveforms, volume, attackMs, decayMs, sustainLevel, sustainMs, releaseMs, pulseWidth⟩
  else .refused .indexOutOfRange

end Sys2Proof.Machine
end

