-- ==== Sys2Proof/Machine/Envelope.lean ====
section
/-! DEFINITION. The ADSR envelope state machine (41_envelope.md). Arithmetic is on natural numbers; the bounds of R112 and
R161 keep every amplitude inside 16 bits. -/

namespace Sys2Proof.Machine

/-- `lerp(a, b, x, len)` (R112): truncate the distance travelled. -/
def lerp (a b x len : Nat) : Nat :=
  if a ≤ b then a + (b - a) * x / len else a - (a - b) * x / len

/-- The sustain level of a voice before it is bounded by `volume`: the first point of the table for this voice, else its own. -/
def susLevel (table : List SusPoint) (level volume : U16) : U16 :=
  match table with
  | [] => level
  | e :: rest => if e.level = level ∧ e.volume = volume then e.amp else susLevel rest level volume

/-- `sus_amp` (R7, R102), the parameter function of `Params.susAmp`, bounded by `volume` (the range of `S` in R102). With no
points it is the default, `min(sustain_level, volume)` (the spec's decision D13; log entry 10). -/
def susAmp (table : List SusPoint) (level volume : U16) : U16 :=
  if (susLevel table level volume).toNat ≤ volume.toNat then susLevel table level volume else volume

/-- What the envelope of a note reads from its voice (R102). -/
structure EnvParams where
  /-- `V` -/
  volume : U16
  /-- `A` -/
  attack : U16
  /-- `D` -/
  decay : U16
  /-- `S`, the sustain amplitude. -/
  sustain : U16
  /-- `SM` -/
  hold : U16
  /-- `R` -/
  release : U16
  deriving DecidableEq, Repr

/-- `t1`: end of attack (R103). -/
def EnvParams.t1 (p : EnvParams) : Nat := p.attack.toNat
/-- `t2`: end of decay (R103). -/
def EnvParams.t2 (p : EnvParams) : Nat := p.attack.toNat + p.decay.toNat
/-- `t3`: end of sustain, start of the automatic release (R103). -/
def EnvParams.t3 (p : EnvParams) : Nat := p.attack.toNat + p.decay.toNat + p.hold.toNat
/-- `t4`: end of the automatic release (R103). -/
def EnvParams.t4 (p : EnvParams) : Nat := p.attack.toNat + p.decay.toNat + p.hold.toNat + p.release.toNat

/-- The six fields of voice `v` the envelope reads, and the derived `S` (R102). A voice that does not exist is refused (R157). -/
def State.envParams (s : State) (v : Byte) : Res EnvParams :=
  if v.toNat < s.voiceCount.toNat then
    andThen (s.voiceField v .volume) fun volume =>
    andThen (s.voiceField v .attackMs) fun attack =>
    andThen (s.voiceField v .decayMs) fun decay =>
    andThen (s.voiceField v .sustainLevel) fun level =>
    andThen (s.voiceField v .sustainMs) fun hold =>
    andThen (s.voiceField v .releaseMs) fun release =>
    .next ⟨volume, attack, decay, susAmp s.params.susAmp level volume, hold, release⟩
  else .refused .indexOutOfRange

/-- Amplitude in ATTACK (R106). -/
def attackAmp (p : EnvParams) (e : Nat) : Nat :=
  if p.attack.toNat = 0 then p.volume.toNat else lerp 0 p.volume.toNat e p.attack.toNat

/-- Amplitude in DECAY (R107). -/
def decayAmp (p : EnvParams) (e : Nat) : Nat := lerp p.volume.toNat p.sustain.toNat (e - p.t1) p.decay.toNat

/-- Amplitude in the automatic RELEASE (R109). -/
def releaseAmp (p : EnvParams) (e : Nat) : Nat := lerp p.sustain.toNat 0 (e - p.t3) p.release.toNat

/-- The envelope of a note without note-off, at elapsed time `e`: the first row of R105 that holds. -/
def envSounding (p : EnvParams) (e : Nat) : Phase × Nat :=
  if e ≤ p.t1 then (.attack, attackAmp p e)
  else if e ≤ p.t2 then (.decay, decayAmp p e)
  else if e ≤ p.t3 then (.sustain, p.sustain.toNat)
  else if e < p.t4 then (.release, releaseAmp p e)
  else (.done, 0)

/-- The envelope after an accepted note-off at level `l`, `z` after it, with release time `r`: the first row of R114 that holds. -/
def envReleased (l r z : Nat) : Phase × Nat :=
  if z = 0 then (.release, l)
  else if z < r then (.release, lerp l 0 z r)
  else (.done, 0)

/-- `env(r, et)` (R115) on the parameters of the note's voice. Engine times before `start` (or before the note-off) have no
elapsed time and are refused (R104, R161; no run reaches them). -/
def env (p : EnvParams) (r : Note) (et : U32) : Res (Phase × Nat) :=
  match r.off with
  | some off =>
    if off.toNat ≤ et.toNat then .next (envReleased r.relAmp.toNat p.release.toNat (et.toNat - off.toNat))
    else .refused .elapsedTime
  | none =>
    if r.start.toNat ≤ et.toNat then .next (envSounding p (et.toNat - r.start.toNat))
    else .refused .elapsedTime

/-- `env(note, et)` with the voice read from the image at every evaluation (R102). -/
def State.noteEnv (s : State) (r : Note) (et : U32) : Res (Phase × Nat) :=
  andThen (s.envParams r.voice) fun p => env p r et

/-- `note_off(c)` on an occupied slot (R113), at engine time `now`. -/
def State.noteOff (s : State) (r : Note) : Res Note :=
  match r.off with
  | some _ => .next r
  | none =>
    andThen (s.envParams r.voice) fun p =>
      andThen (env p r s.now) fun pa =>
        if p.t3 ≤ s.now.toNat - r.start.toNat then .next r
        else .next { r with off := some s.now, relAmp := BitVec.ofNat 16 pa.2 }

/-- Note-off for every occupied slot, in ascending channel order (R135). -/
def State.noteOffAll (s : State) : NoteTable → Res NoteTable
  | [] => .next []
  | (c, r) :: l =>
    andThen (s.noteOff r) fun r' => andThen (s.noteOffAll l) fun l' => .next ((c, r') :: l')

/-- The tuple an ENV pass reports for the note of channel `c` (R119, R120). -/
def State.eventOf (s : State) (c : Nat) (r : Note) (pa : Phase × Nat) : Event where
  chanOut := BitVec.ofNat 17 (s.channelOffset.toNat + c)
  voice := r.voice
  note := r.note
  amp := BitVec.ofNat 16 pa.2
  phase := pa.1

/-- The slot after its evaluation: destroyed when DONE (R118), else with the new phase and amplitude (R119). -/
def keepNote (c : Nat) (r : Note) (pa : Phase × Nat) : NoteTable :=
  if pa.1 = .done then [] else [(c, { r with phase := pa.1, amp := BitVec.ofNat 16 pa.2 })]

/-- The loop of the ENV pass (R119) over the occupied slots in ascending channel order. -/
def State.envNotes (s : State) (et : U32) : NoteTable → Res (List Event × NoteTable)
  | [] => .next ([], [])
  | (c, r) :: l =>
    andThen (s.noteEnv r et) fun pa =>
      andThen (s.envNotes et l) fun out =>
        .next (s.eventOf c r pa :: out.1, keepNote c r pa ++ out.2)

/-- The ENV pass (R119) at the engine time `now` of this update. -/
def State.envPass (s : State) : Res State :=
  andThen (s.envNotes s.now s.notes) fun out => .next (s.setPass out)

end Sys2Proof.Machine
end

