-- ==== Sys2Proof/Machine/Flags.lean ====
section
/-! DEFINITION. The conditions of an instance, computed from `running` and `pc` and nothing else (R14, R15, R139). No command
writes a flag; these are all the flag computations the spec has. -/

namespace Sys2Proof.Machine

/-- The three conditions of R15. -/
inductive Condition where
  | stopped
  | running
  | paused
  deriving DecidableEq, Repr

/-- `paused = (running = 0) and (pc > 0)` (R14): not stored. -/
def State.paused (s : State) : Bool := !s.running && decide (0 < s.pc.toNat)

/-- The condition of the instance (R15). -/
def State.condition (s : State) : Condition :=
  if s.running then .running else if 0 < s.pc.toNat then .paused else .stopped

/-- Whether an `update` called now is effective: `running = 1 or pc = 0` (R139). -/
def State.effective (s : State) : Bool := s.running || decide (s.pc.toNat = 0)

/-- The phase numbers of R121. -/
def Phase.code : Phase → BitVec 3
  | .attack => 0
  | .decay => 1
  | .sustain => 2
  | .release => 3
  | .done => 4

/-- The error numbers of R150. -/
def ErrorCode.code : ErrorCode → Nat
  | .ok => 0
  | .invalidMagic => 1
  | .truncatedBuffer => 2
  | .invalidVoiceIndex => 3
  | .unknownOpcode => 4
  | .indexOutOfRange => 5
  | .invalidChannel => 6

/-- The boolean of a result (R132, R142): a load code is true when it is `OK`. -/
def Reply.flag : Reply → Bool
  | .code c => decide (c = .ok)
  | .bool b => b

end Sys2Proof.Machine
end

