-- ==== Sys2Proof/Machine/Commands.lean ====
section
/-! DEFINITION. The meanings of the six rows of the opcode table (40_sequencer.md section 2), one definition each. The engine time
`et` of the update is `now`, which the update writes before the loop (R136; log entry 14). -/

namespace Sys2Proof.Machine

/-- `NOP` (R82): the operand is ignored. -/
def execNop (_operand : U16) (s : State) : Res State := s.advance

/-- `SET_CHANNEL x` (R83): not validated here. -/
def execSetChannel (x : U16) (s : State) : Res State := (s.setCurChannel x).advance

/-- `SET_VOICE x` (R84): out of range is skipped and logged. -/
def execSetVoice (x : U16) (s : State) : Res State :=
  if s.voiceInRange x then (s.setCurVoice (loByte x)).advance
  else (s.raise .invalidVoiceIndex).advance

/-- The note a `PLAY x` creates (R85, R116); `phase` and `amp` are placeholders the ENV pass of the same update overwrites. -/
def State.newNote (s : State) (x : U16) : Note where
  voice := s.curVoice
  note := x
  start := s.now
  off := none
  relAmp := 0
  phase := .attack
  amp := 0

/-- `PLAY x` (R85): the voice is checked before the channel (R160); an occupied slot is replaced (R117). -/
def execPlay (x : U16) (s : State) : Res State :=
  if s.voiceCount.toNat ≤ s.curVoice.toNat then (s.raise .invalidVoiceIndex).advance
  else if s.params.nChannels ≤ s.curChannel.toNat then (s.raise .invalidChannel).advance
  else (s.setNotes (s.notes.set s.curChannel.toNat (s.newNote x))).advance

/-- `WAIT x` (R86): `due <- et + x`, refused where it would not fit in 32 bits (no run reaches that, R18; log entry 7). -/
def execWait (x : U16) (s : State) : Res State :=
  if s.now.toNat + x.toNat < 4294967296 then (s.setDue (s.now + x.setWidth 32)).advance
  else .refused .dueOverflow

/-- An unknown opcode (R87): as `NOP`, and logged. -/
def execUnknown (_opcode : Byte) (_operand : U16) (s : State) : Res State := (s.raise .unknownOpcode).advance

end Sys2Proof.Machine
end

