-- ==== Sys2Proof/Machine/Dispatch.lean ====
section
/-! DEFINITION. The dispatch on a decoded command (R81): one arm per row of the opcode table. -/

namespace Sys2Proof.Machine

def exec (i : Instr) (s : State) : Host.Outcome State Fault Refusal :=
  match i with
  | .nop x => Sys2Proof.Machine.execNop x s
  | .setChannel x => Sys2Proof.Machine.execSetChannel x s
  | .setVoice x => Sys2Proof.Machine.execSetVoice x s
  | .play x => Sys2Proof.Machine.execPlay x s
  | .wait x => Sys2Proof.Machine.execWait x s
  | .unknown opcode x => Sys2Proof.Machine.execUnknown opcode x s

end Sys2Proof.Machine
end

