-- ==== Sys2Proof/Machine/Sequencer.lean ====
section
/-! DEFINITION. The PCD loop (40_sequencer.md section 1). -/

namespace Sys2Proof.Machine

/-- The end-of-song transition (R77): nothing logged, no note-off, working registers kept. -/
def State.endOfSong (s : State) : State := { s with running := false, pc := 0, due := 0 }

/-- `pcd_loop(et)` (R76) with `et = now`, from a point where `STEP_CAP - n` is `budget`: the three exit tests in the order end
of song (R77), time gate (R78), work cap (R79), then fetch (R80) and dispatch (R81). -/
def pcdLoop (budget : Nat) (s : State) : Res State :=
  if s.pc = s.commandCount then .next s.endOfSong
  else if s.now.toNat < s.due.toNat then .next s
  else
    match budget with
    | 0 => .next s
    | k + 1 => andThen (s.fetch s.pc) fun i => andThen (exec i s) fun t => pcdLoop k t

/-- The PCD loop of an update: only if `running` (R75), with the whole cap as budget. -/
def State.sequence (s : State) : Res State := if s.running then pcdLoop s.params.stepCap s else .next s

end Sys2Proof.Machine
end

