-- ==== Sys2Proof/Machine/HostOps.lean ====
section
/-! DEFINITION. The host operations (42_host_operations.md). Each is one atomic transition; its result and outputs stand in `result`,
`events` and `log` (log entry 3). -/

namespace Sys2Proof.Machine

/-- The value of a byte of a buffer as a number. Every use stands behind a check of the buffer's length. -/
def bufferByte (buf : List Byte) (a : Nat) : Nat := (buf.getD a 0).toNat

/-- `vc = buffer[5]` (R44). -/
def bufferVoices (buf : List Byte) : Nat := bufferByte buf 5

/-- `cc = buffer[X] + 256 * buffer[X+1]` (R44). -/
def bufferCommands (lay : Layout) (buf : List Byte) : Nat :=
  bufferByte buf (countOffset lay (bufferVoices buf)) + 256 * bufferByte buf (countOffset lay (bufferVoices buf) + 1)

/-- The checks of R44 in their order; the first that fails gives the code. -/
def loadCheck (lay : Layout) (buf : List Byte) : ErrorCode :=
  if buf.length < 4 ∨ buf.take 4 ≠ magic then .invalidMagic
  else if buf.length < headerBytes then .truncatedBuffer
  else if buf.length < commandBase lay (bufferVoices buf) then .truncatedBuffer
  else if buf.length < imageEnd lay (bufferVoices buf) (bufferCommands lay buf) then .truncatedBuffer
  else .ok

/-- Every piece of state at the "`construct` (no buffer)" column of R30; the parameters and the operations still to come are no
state of the instance and stay. -/
def State.constructed (s : State) (offset : U16) : State :=
  { State.reset with params := s.params, inbox := s.inbox, channelOffset := offset }

/-- The state after an accepted `load` (R44 step 5, R132, the "successful `load`" column of R30). The ghost `lastTick` stays: a
load does not reset the host's duty on ticks (R140). -/
def State.withProgram (s : State) (buf : List Byte) : State :=
  { s.constructed s.channelOffset with
    lastTick := s.lastTick
    loaded := true
    version := buf.getD 4 0
    voiceCount := BitVec.ofNat 8 (bufferVoices buf)
    commandCount := BitVec.ofNat 16 (bufferCommands s.params.layout buf)
    image := Memory.ofBytes buf }

/-- Whether the optional parameter `SUPPORTED_VERSION` is set and differs (R45; DESIGN CHOICE log entry 11: tested after the
checks of R44). -/
def State.versionRefused (s : State) (buf : List Byte) : Bool :=
  match s.params.supportedVersion with
  | none => false
  | some v => decide (buf.getD 4 0 ≠ v)

/-- `load(buffer)` (R132). A failed check changes no state of the instance. -/
def State.load (s : State) (buf : List Byte) : Res State :=
  match loadCheck s.params.layout buf with
  | .ok =>
    if s.versionRefused buf then .refused .unsupportedVersion
    else .next ((s.withProgram buf).reply (some (.code .ok)))
  | code => .next (s.reply (some (.code code)))

/-- `construct(channel_offset, optional buffer)` (R131): reset, then the load of the buffer with its result discarded. -/
def State.construct (s : State) (offset : U16) (buffer : Option (List Byte)) : Res State :=
  match buffer with
  | none => .next ((s.constructed offset).reply none)
  | some buf => andThen ((s.constructed offset).load buf) fun t => .next (t.reply none)

/-- `start()` (R133): rejected when unloaded. -/
def State.start (s : State) : Res State :=
  if s.loaded then .next (State.reply { s with running := true } (some (.bool true)))
  else .next (s.reply (some (.bool false)))

/-- `pause()` (R134): `resync` is set only when the instance becomes Paused. -/
def State.pause (s : State) : Res State :=
  if s.loaded then
    .next (State.reply
      { s with running := false, resync := if s.running && decide (0 < s.pc.toNat) then true else s.resync }
      (some (.bool true)))
  else .next (s.reply (some (.bool false)))

/-- `stop()` (R135): note-off for every note, at engine time `now`. -/
def State.stop (s : State) : Res State :=
  if s.loaded then
    andThen (s.noteOffAll s.notes) fun notes =>
      .next (State.reply { s with running := false, pc := 0, due := 0, notes := notes } (some (.bool true)))
  else .next (s.reply (some (.bool false)))

/-- `is_running()` (R137). -/
def State.queryRunning (s : State) : Res State := .next (s.reply (some (.bool s.running)))

/-- `is_paused()` (R138). -/
def State.queryPaused (s : State) : Res State := .next (s.reply (some (.bool s.paused)))

/-- The host duty of R140 for one tick: not below the tick of the previous update of any kind, and below `TICK_LIMIT`. -/
def State.tickAdmissible (s : State) (tick : U32) : Bool :=
  decide (s.lastTick.toNat ≤ tick.toNat) && decide (tick.toNat < tickLimit)

/-- The time base (R141): after a pause the whole gap goes into `skew` and no engine time passes; otherwise `et = tick - skew`.
`now <- et` in both cases. Where the tick gives no engine time at or after `now` the model refuses (R140; no run reaches
that while the host keeps its duty). -/
def State.timeBase (s : State) (tick : U32) : Res State :=
  if s.resync then
    if s.now.toNat ≤ tick.toNat then .next (s.rebase (tick - s.now)) else .refused .engineTime
  else if s.skew.toNat + s.now.toNat ≤ tick.toNat then .next (s.setNow (tick - s.skew)) else .refused .engineTime

/-- An effective `update` after the duty is checked (R136): time base, PCD loop, ENV pass, in this order. -/
def State.effectiveUpdate (s : State) (tick : U32) : Res State :=
  andThen (s.timeBase tick) fun s1 =>
    andThen ((s1.setLog []).sequence) fun s2 =>
      andThen s2.envPass fun s3 => .next (s3.setResult (some (.bool true)))

/-- `update(tick)` (R136, R139): refused when the host breaks its duty, a complete no-op of the hardware's state while Paused. -/
def State.update (s : State) (tick : U32) : Res State :=
  if s.tickAdmissible tick then
    if s.paused then .next ((s.setLastTick tick).reply (some (.bool true)))
    else (s.setLastTick tick).effectiveUpdate tick
  else .refused .tickDuty

/-- One host operation (R130). -/
def hostOp (op : HostOp) (s : State) : Res State :=
  match op with
  | .construct offset buffer => s.construct offset buffer
  | .load buffer => s.load buffer
  | .start => s.start
  | .pause => s.pause
  | .stop => s.stop
  | .update tick => s.update tick
  | .isRunning => s.queryRunning
  | .isPaused => s.queryPaused

end Sys2Proof.Machine
end

