-- ==== Sys2Proof/Machine/Step.lean ====
section
/-! DEFINITION. One step: one host operation (R5). -/

namespace Sys2Proof.Machine

/-- One step of the machine: the next host operation, run to completion (R5). With no operation to come nothing happens
(R177: time passes only in effective updates). -/
def step (s : State) : Host.Outcome State Fault Refusal :=
  match s.inbox with
  | [] => .next s
  | op :: rest => hostOp op (s.setInbox rest)

/-- The state in which the very next step fetches and runs exactly the command of the table word `w` (log entry 6): its record
at index `pc` as the program's last command, the header of the image to match, the instance Running with its gate open, and
one `update` to come, at the earliest admissible tick. -/
def State.withFetchWord (s : State) (nbits w : Nat) : State :=
  { s with
    loaded := true
    running := true
    due := 0
    commandCount := s.pc + 1
    image :=
      (((s.image.putAll 0 (magic ++ [s.version, s.voiceCount])).putAll
        (countOffset s.params.layout s.voiceCount.toNat) [loByte (s.pc + 1), hiByte (s.pc + 1)]).putAll
        (s.commandOffset s.pc.toNat) (tableBytes s.params.layout nbits w))
    inbox := [.update s.lastTick] }

end Sys2Proof.Machine
end

