-- ==== Sys2Proof/Machine/Assembler.lean ====
section
/-! DEFINITION. Building an image: the records and tables of 20_memory.md written out, and the text syntax of R66 read into them. The
machine never runs this; it is how a program image is written down (log entry 18). -/

namespace Sys2Proof.Machine

/-- Two bytes of a 16-bit value, the less significant first (R47). -/
def bytes16 (x : U16) : List Byte := [loByte x, hiByte x]

/-- The record of a voice (R43); the pad byte of `ALIGNED` is written as 0. -/
def encodeVoice (lay : Layout) (v : Voice) : List Byte :=
  (match lay with
    | .packed => [v.waveforms]
    | .aligned => [v.waveforms, 0]) ++
  bytes16 v.volume ++ bytes16 v.attackMs ++ bytes16 v.decayMs ++ bytes16 v.sustainLevel ++ bytes16 v.sustainMs ++
  bytes16 v.releaseMs ++ bytes16 v.pulseWidth

/-- The records of a list, back to back (R42, R60). -/
def records {α : Type} (f : α → List Byte) : List α → List Byte
  | [] => []
  | a :: l => f a ++ records f l

/-- The bytes before the command table (R41, R42). -/
def imageHead (lay : Layout) (version : Byte) (voices : List Voice) (commands : Nat) : List Byte :=
  magic ++ [version, BitVec.ofNat 8 voices.length] ++ records (encodeVoice lay) voices ++ bytes16 (BitVec.ofNat 16 commands)

/-- The image of a version, voices and commands (R41, R42): at most 255 voices and 65535 commands. -/
def buildImage (lay : Layout) (version : Byte) (voices : List Voice) (commands : List Instr) : List Byte :=
  imageHead lay version voices commands.length ++ records (encode lay) commands

/-! ### The text syntax (R66) -/

/-- One line of a program text. -/
inductive AsmLine where
  /-- `.voice ...` -/
  | voice (v : Voice)
  /-- `MNEMONIC operand` or `.cmd opcode, operand`. -/
  | command (i : Instr)
  /-- A line with nothing on it but a comment. -/
  | blank
  deriving DecidableEq, Repr

/-- The value of a digit in a base, if it is one. -/
def digit (base : Nat) (c : Char) : Option Nat :=
  let n := c.toNat
  let v :=
    if 48 ≤ n ∧ n ≤ 57 then n - 48
    else if 65 ≤ n ∧ n ≤ 70 then n - 55
    else if 97 ≤ n ∧ n ≤ 102 then n - 87
    else base
  if v < base then some v else none

/-- Digits read on from a value. -/
def digits (base acc : Nat) : List Char → Option Nat
  | [] => some acc
  | c :: cs =>
    match digit base c with
    | some v => digits base (acc * base + v) cs
    | none => none

/-- An unsigned integer below a limit: decimal, or `0x` and hexadecimal (R66). -/
def number (limit : Nat) (w : List Char) : Option Nat :=
  let n :=
    match w with
    | [] => none
    | ['0', 'x'] => none
    | '0' :: 'x' :: cs => digits 16 0 cs
    | cs => digits 10 0 cs
  n.bind fun v => if v < limit then some v else none

/-- A 16-bit number. -/
def number16 (w : List Char) : Option U16 := (number 65536 w).map (BitVec.ofNat 16)

/-- An 8-bit number. -/
def number8 (w : List Char) : Option Byte := (number 256 w).map (BitVec.ofNat 8)

/-- The words of a line up to `;`, separated by blanks and commas. -/
def wordsOf (acc : List Char) : List Char → List (List Char)
  | [] => if acc.isEmpty then [] else [acc.reverse]
  | c :: cs =>
    if c = ';' then (if acc.isEmpty then [] else [acc.reverse])
    else if c = ' ' ∨ c = ',' ∨ c = '\t' then (if acc.isEmpty then wordsOf [] cs else acc.reverse :: wordsOf [] cs)
    else wordsOf (c :: acc) cs

/-- The command of a mnemonic in upper case, letter for letter (R63, R66). -/
def mnemonicCommand (m : List Char) (x : U16) : Option Instr :=
  if m = "NOP".toList then some (.nop x)
  else if m = "SET_CHANNEL".toList then some (.setChannel x)
  else if m = "SET_VOICE".toList then some (.setVoice x)
  else if m = "PLAY".toList then some (.play x)
  else if m = "WAIT".toList then some (.wait x)
  else none

/-- The voice of the eight numbers of a `.voice` line (R66). -/
def voiceOfWords : List (List Char) → Option Voice
  | [w, vol, a, d, sl, sm, r, pw] =>
    match number8 w, number16 vol, number16 a, number16 d, number16 sl, number16 sm, number16 r, number16 pw with
    | some w, some vol, some a, some d, some sl, some sm, some r, some pw => some ⟨w, vol, a, d, sl, sm, r, pw⟩
    | _, _, _, _, _, _, _, _ => none
  | _ => none

/-- One line of text (R66), if it is one. Only `NOP` may omit its operand. -/
def parseLine (line : List Char) : Option AsmLine :=
  match wordsOf [] line with
  | [] => some .blank
  | ['.', 'v', 'o', 'i', 'c', 'e'] :: ws => (voiceOfWords ws).map AsmLine.voice
  | [['.', 'c', 'm', 'd'], o, x] =>
    match number8 o, number16 x with
    | some o, some x => some (.command (instrOf o x))
    | _, _ => none
  | [['N', 'O', 'P']] => some (.command (.nop 0))
  | [m, x] => ((number16 x).bind (mnemonicCommand m)).map AsmLine.command
  | _ => none

/-- The voices of a program text, in order. -/
def voicesOf : List AsmLine → List Voice
  | [] => []
  | .voice v :: l => v :: voicesOf l
  | .command _ :: l => voicesOf l
  | .blank :: l => voicesOf l

/-- The commands of a program text, in order. -/
def commandsOf : List AsmLine → List Instr
  | [] => []
  | .voice _ :: l => commandsOf l
  | .command i :: l => i :: commandsOf l
  | .blank :: l => commandsOf l

/-- Every line parsed, or none. -/
def parseLines : List (List Char) → Option (List AsmLine)
  | [] => some []
  | l :: ls =>
    match parseLine l, parseLines ls with
    | some a, some rest => some (a :: rest)
    | _, _ => none

/-- The image of a program text (R66), if it is one with at most 255 voices and 65535 commands. -/
def assemble (lay : Layout) (version : Byte) (text : List (List Char)) : Option (List Byte) :=
  match parseLines text with
  | some lines =>
    if (voicesOf lines).length ≤ 255 ∧ (commandsOf lines).length ≤ 65535 then
      some (buildImage lay version (voicesOf lines) (commandsOf lines))
    else none
  | none => none

end Sys2Proof.Machine
end

