-- ==== Sys2Proof/Machine/Counter.lean ====
section
/-! DEFINITION. The envelope as a phase register and one down-counter per phase (R124), the equivalent formulation the spec gives
as an aid. The machine itself runs on `env`, which is normative; the counter view is stated equal to it. -/

namespace Sys2Proof.Machine

/-- The counter form of a note: its phase, what is left of it, and the amplitude a release descends from. -/
structure CounterNote where
  phase : Phase
  left : Nat
  /-- Origin of the release ramp: `S`, or the level `L` of a note-off. -/
  origin : Nat
  deriving DecidableEq, Repr

/-- On creation: `phase = ATTACK`, `left = A` (R124). -/
def CounterNote.create (p : EnvParams) : CounterNote := ⟨.attack, p.attack.toNat, p.sustain.toNat⟩

/-- A note-off at level `l`: `phase = RELEASE`, `left = R` (R124). -/
def CounterNote.released (p : EnvParams) (l : Nat) : CounterNote := ⟨.release, p.release.toNat, l⟩

/-- The inner loop of R124: spend `d` on the current phase and move on. At most four moves exist, so `fuel` 4 is enough. -/
def CounterNote.spend (p : EnvParams) : Nat → CounterNote → Nat → CounterNote
  | 0, c, _ => c
  | fuel + 1, c, d =>
    match c.phase with
    | .attack =>
      if c.left < d then CounterNote.spend p fuel ⟨.decay, p.decay.toNat, c.origin⟩ (d - c.left) else { c with left := c.left - d }
    | .decay =>
      if c.left < d then CounterNote.spend p fuel ⟨.sustain, p.hold.toNat, c.origin⟩ (d - c.left) else { c with left := c.left - d }
    | .sustain =>
      if c.left < d then CounterNote.spend p fuel ⟨.release, p.release.toNat, c.origin⟩ (d - c.left)
      else { c with left := c.left - d }
    | .release => if c.left ≤ d then ⟨.done, 0, c.origin⟩ else { c with left := c.left - d }
    | .done => c

/-- Engine time advances by `d` (R124): nothing changes for `d = 0`. -/
def CounterNote.advance (p : EnvParams) (c : CounterNote) (d : Nat) : CounterNote :=
  if d = 0 then c else CounterNote.spend p 4 c d

/-- The amplitude at position `x = length - left` of the phase (R124). -/
def CounterNote.amp (p : EnvParams) (c : CounterNote) : Nat :=
  match c.phase with
  | .attack => if p.attack.toNat = 0 then p.volume.toNat else lerp 0 p.volume.toNat (p.attack.toNat - c.left) p.attack.toNat
  | .decay => lerp p.volume.toNat p.sustain.toNat (p.decay.toNat - c.left) p.decay.toNat
  | .sustain => p.sustain.toNat
  | .release => if p.release.toNat = 0 then c.origin else lerp c.origin 0 (p.release.toNat - c.left) p.release.toNat
  | .done => 0

end Sys2Proof.Machine
end

