-- ==== Sys2Proof/Machine/Instances.lean ====
section
/-! DEFINITION. Several instances (R166): each is a separate copy of the whole state, and an operation moves one of them. -/

namespace Sys2Proof.Machine

/-- The instances a host drives. There is no identifier but the place in this list; `channelOffset` tells them apart to the sink. -/
abbrev System := List State

/-- The next operation of instance `k`, as one transition; the others are not looked at. A stop of that instance is a stop. -/
def System.stepAt (sys : System) (k : Fin sys.length) : Res System :=
  andThen (step sys[k]) fun t => .next (sys.set k t)

end Sys2Proof.Machine
end

