-- ==== Sys2Proof/Safety.lean ====
section
/-! DEFINITION. The terms claims use: the invariant of the machine between host operations, the host's duty, and what part of the
image is read. -/

namespace Sys2Proof.Machine

/-- A slot of the note table is legal (R27, R28): its channel owns a slot, its voice exists, its times are ordered and not after
`now`, and DONE is not stored. -/
def State.slotLegal (s : State) (slot : Nat × Note) : Prop :=
  slot.1 < s.params.nChannels ∧ slot.2.voice.toNat < s.voiceCount.toNat ∧ slot.2.start.toNat ≤ s.now.toNat ∧
    (∀ off ∈ slot.2.off, slot.2.start.toNat ≤ off.toNat ∧ off.toNat ≤ s.now.toNat) ∧ slot.2.phase ≠ .done

/-- The stored amplitude of a note is its envelope at `now`, and the note is not over (R113: "every note has been evaluated at
`now`"); the level it was released from is within its voice's volume (R122 (e)). -/
def State.slotCurrent (s : State) (slot : Nat × Note) : Bool :=
  match s.envParams slot.2.voice with
  | .next p =>
    decide (slot.2.relAmp.toNat ≤ p.volume.toNat) &&
      match env p slot.2 s.now with
      | .next pa => decide (pa.1 ≠ .done) && decide (pa.2 = slot.2.amp.toNat)
      | _ => false
  | _ => false

/-- What holds between host operations. Each field names the rule that says it. -/
structure State.Inv (s : State) : Prop where
  /-- R7. -/
  stepCap_pos : 1 ≤ s.params.stepCap
  /-- R7. -/
  nChannels_range : 1 ≤ s.params.nChannels ∧ s.params.nChannels ≤ 65536
  /-- R11: what an unloaded instance looks like. -/
  unloaded : s.loaded = false →
    s.image = [] ∧ s.version = 0 ∧ s.voiceCount = 0 ∧ s.commandCount = 0 ∧ s.running = false ∧ s.pc = 0 ∧ s.notes = []
  /-- R10, R44: the image is the bytes of a buffer, offsets `0 .. len-1`. -/
  image_contiguous : s.image = Memory.ofBytes (s.image.map Prod.snd)
  /-- R44, R49: the tables lie inside the image. -/
  image_long : s.loaded = true →
    imageEnd s.params.layout s.voiceCount.toNat s.commandCount.toNat ≤ s.image.length
  /-- R23: the status registers are the bytes of the image. -/
  header : s.loaded = true →
    s.image.readBytes 0 6 = some (magic ++ [s.version, s.voiceCount]) ∧
      s.image.readBytes (countOffset s.params.layout s.voiceCount.toNat) 2 =
        some [loByte s.commandCount, hiByte s.commandCount]
  /-- R12: between host operations `pc < command_count`, or `pc = 0`. -/
  pc_legal : s.pc.toNat < s.commandCount.toNat ∨ s.pc = 0
  /-- R17. -/
  voice_legal : s.curVoice.toNat < s.voiceCount.toNat ∨ s.curVoice = 0
  /-- R133: a run begins at command 0 with `due = 0`. -/
  due_at_start : s.pc = 0 → s.due = 0
  /-- R18. -/
  due_bound : s.due.toNat ≤ s.now.toNat + 65535
  /-- R20, R140: engine time and time spent Paused do not exceed the host's clock. -/
  clock : s.skew.toNat + s.now.toNat ≤ s.lastTick.toNat
  /-- R140. -/
  tick_range : s.lastTick.toNat < tickLimit
  /-- R21, R134: a Paused instance will resynchronise. -/
  paused_resync : s.paused = true → s.resync = true
  /-- The canonical form of the note table. -/
  notes_wf : NoteTable.wf s.notes = true
  /-- R28. -/
  notes_legal : ∀ slot ∈ s.notes, s.slotLegal slot
  /-- R113, R119, R122. -/
  notes_current : ∀ slot ∈ s.notes, s.slotCurrent slot = true

/-- The host keeps its duty on the next operation (R140), and the optional parameter `SUPPORTED_VERSION` is left unset, as this
hardware leaves it (R45). -/
def State.hostDuty (s : State) : Prop :=
  s.params.supportedVersion = none ∧ ∀ tick rest, s.inbox = .update tick :: rest → s.tickAdmissible tick = true

/-- The next operation is neither `construct` nor `load`: the two that replace the image and the time registers (R132). -/
def HostOp.keepsProgram : HostOp → Bool
  | .construct _ _ => false
  | .load _ => false
  | .start => true
  | .pause => true
  | .stop => true
  | .update _ => true
  | .isRunning => true
  | .isPaused => true

/-- The image offsets that hold a byte some rule reads after `load`: the two bytes of the six voice fields the envelope reads
(R102), and the opcode and operand bytes of the commands (R46). Not among them: the header, `command_count`, `waveforms`,
`pulse_width` (R26), pad bytes, and what follows the command table (R42). -/
def State.readsOffset (s : State) (a : Nat) : Prop :=
  (∃ i < s.voiceCount.toNat,
    ∃ f ∈ [VoiceField.volume, .attackMs, .decayMs, .sustainLevel, .sustainMs, .releaseMs],
      a = s.voiceOffset i f ∨ a = s.voiceOffset i f + 1) ∨
  (∃ i < s.commandCount.toNat,
    a = s.commandOffset i ∨ a = s.commandOffset i + operandOffset s.params.layout ∨
      a = s.commandOffset i + operandOffset s.params.layout + 1)

/-- The time gate of R78 is open for the command at `pc`, and it is a command: the loop reaches the fetch if the cap allows. -/
def State.commandDue (s : State) : Prop := s.pc.toNat < s.commandCount.toNat ∧ s.due.toNat ≤ s.now.toNat

/-- Ticks at least `gap` apart, the first at least `gap` after `last`, and admissible (R140). -/
def ticksSpaced (gap last : Nat) : List U32 → Prop
  | [] => True
  | tick :: ticks => last + gap ≤ tick.toNat ∧ tick.toNat < tickLimit ∧ ticksSpaced gap tick.toNat ticks

end Sys2Proof.Machine
end

