-- ==== Sys2Proof/Certificates/Slice0/Obligations.lean ====
section
/-! DEFINITION. The statements for the provers. Each says which rule of spec/ it formalises. -/

open Sys2Proof Sys2Proof.Machine

/-! ### Encoding (30_encoding.md) -/

/-- R69 with the ignored bits kept (log entry 15): decoding the record of any well-formed command, in either layout and with any
bytes after it, gives it back with every operand bit. -/
def Obligations.DecodeInvertsEncode : Prop :=
  ∀ (lay : Layout) (i : Instr) (rest : List Byte), i.wf = true → decode lay (encode lay i ++ rest) = .ok (i, rest)

/-- The other direction: whatever a decoded record was, its command is well formed, and the record is `encode` of it (`PACKED`), or
the command's opcode byte, a pad byte and the command's operand (`ALIGNED`). For `NOP` and an unknown opcode this rests on the
model's choice to keep the bits they ignore (log entry 15, which R69 advises). -/
def Obligations.EncodeInvertsDecode : Prop :=
  (∀ (bs rest : List Byte) (i : Instr), decode .packed bs = .ok (i, rest) →
    i.wf = true ∧ encode .packed i ++ rest = bs) ∧
  ∀ (bs rest : List Byte) (i : Instr), decode .aligned bs = .ok (i, rest) →
    i.wf = true ∧ ∃ pad, bs = opcodeOf i :: pad :: loByte (operandOf i) :: hiByte (operandOf i) :: rest

/-- R69: decode is total on an opcode byte and an operand, into one of six cases, and encoding is its inverse. That it is the
inverse on `NOP` with an operand and on an unknown opcode too is the model's choice (log entry 15). -/
def Obligations.OpcodeByteSelectsTheCommand : Prop :=
  ∀ (opcode : Byte) (x : U16),
    (opcode = 0 → instrOf opcode x = .nop x) ∧ (opcode = 1 → instrOf opcode x = .setChannel x) ∧
    (opcode = 2 → instrOf opcode x = .setVoice x) ∧ (opcode = 3 → instrOf opcode x = .play x) ∧
    (opcode = 4 → instrOf opcode x = .wait x) ∧ (5 ≤ opcode.toNat → instrOf opcode x = .unknown opcode x) ∧
    opcodeOf (instrOf opcode x) = opcode ∧ operandOf (instrOf opcode x) = x

/-- The words K1 to K10 of 95_test_vectors.md section 3, written out from R60 and R63. -/
def Obligations.SpecWordsDecode : Prop :=
  decodeTableWord 24 0x000000 = some (.nop 0) ∧ decodeTableWord 24 0xDEAD00 = some (.nop 0xDEAD) ∧
  decodeTableWord 24 0xFFFF01 = some (.setChannel 65535) ∧ decodeTableWord 24 0x000102 = some (.setVoice 1) ∧
  decodeTableWord 24 0x010002 = some (.setVoice 256) ∧ decodeTableWord 24 0x003C03 = some (.play 60) ∧
  decodeTableWord 24 0x01F404 = some (.wait 500) ∧ decodeTableWord 24 0x000005 = some (.unknown 5 0) ∧
  decodeTableWord 24 0x1234FF = some (.unknown 255 0x1234) ∧ decodeTableWord 24 0x000080 = some (.unknown 128 0)

/-- R64, R65: a record of full length always decodes and leaves exactly the bytes after it; a shorter one is rejected by name. -/
def Obligations.EveryFullRecordDecodes : Prop :=
  ∀ (lay : Layout) (bs : List Byte),
    (cmdBytes lay ≤ bs.length → ∃ i, decode lay bs = .ok (i, bs.drop (cmdBytes lay))) ∧
    (bs.length < cmdBytes lay → decode lay bs = .error .shortRecord)

/-- R121 and R150: the numbers of the phases and of the error codes. -/
def Obligations.CodesHaveTheSpecsNumbers : Prop :=
  [Phase.attack, .decay, .sustain, .release, .done].map Phase.code = [0, 1, 2, 3, 4] ∧
  [ErrorCode.ok, .invalidMagic, .truncatedBuffer, .invalidVoiceIndex, .unknownOpcode, .indexOutOfRange, .invalidChannel].map
    ErrorCode.code = [0, 1, 2, 3, 4, 5, 6]

/-! ### The image (20_memory.md) -/

/-- R47: `MemRead(addr, 1)` is the byte, `MemRead(addr, 2)` the little-endian value of two bytes, at any address (R48). -/
def Obligations.MemReadIsLittleEndian : Prop :=
  ∀ (m : Memory) (a : Nat) (b0 b1 : Byte), m.read a = some b0 → m.read (a + 1) = some b1 →
    memRead8 m a = .next b0 ∧ ∃ x, memRead16 m a = .next x ∧ x.toNat = b0.toNat + 256 * b1.toNat

/-- R49, R80, R157: an access outside the image, one that begins at its last byte and needs one more, a fetch outside the command
table and a read outside the voice table are refused, never given a value. -/
def Obligations.OutOfRangeAccessIsRefused : Prop :=
  (∀ (m : Memory) (a : Nat), m.read a = none → memRead8 m a = .refused .imageOutOfRange ∧
    memRead16 m a = .refused .imageOutOfRange) ∧
  (∀ (m : Memory) (a : Nat) (b : Byte), m.read a = some b → m.read (a + 1) = none →
    memRead16 m a = .refused .imageOutOfRange) ∧
  (∀ (s : State) (i : U16), s.commandCount.toNat ≤ i.toNat → s.fetch i = .refused .fetchOutOfRange) ∧
  ∀ (s : State) (v : Byte), s.voiceCount.toNat ≤ v.toNat →
    s.voiceAt v = .refused .indexOutOfRange ∧ s.envParams v = .refused .indexOutOfRange

/-- R41 to R46, R80, R102: an image laid out as the spec says, in either layout, is accepted by `load`, and every voice and every
command reads back as it was written, wherever the odd and even offsets fall. The envelope reads the six fields of R102 and the
sustain amplitude `S` of the parameter `sus_amp`, which is within the volume, and `min(sustain_level, volume)` at its default
(log entry 10 says how the parameter is held). -/
def Obligations.LaidOutImageReadsBack : Prop :=
  ∀ (s : State) (version : Byte) (voices : List Voice) (commands : List Instr),
    voices.length ≤ 255 → commands.length ≤ 65535 → (∀ i ∈ commands, i.wf = true) → s.params.supportedVersion = none →
    ∃ t, s.load (buildImage s.params.layout version voices commands) = .next t ∧
      t.loaded = true ∧ t.version = version ∧ t.voiceCount.toNat = voices.length ∧ t.commandCount.toNat = commands.length ∧
      (∀ (k : Nat) (v : Voice), voices[k]? = some v → t.voiceAt (BitVec.ofNat 8 k) = .next v ∧
        ∃ sus : U16, sus = susAmp s.params.susAmp v.sustainLevel v.volume ∧ sus.toNat ≤ v.volume.toNat ∧
          (s.params.susAmp = [] → sus.toNat = min v.sustainLevel.toNat v.volume.toNat) ∧
          t.envParams (BitVec.ofNat 8 k) = .next
            { volume := v.volume, attack := v.attackMs, decay := v.decayMs, sustain := sus, hold := v.sustainMs
              release := v.releaseMs }) ∧
      ∀ (k : Nat) (i : Instr), commands[k]? = some i → t.fetch (BitVec.ofNat 16 k) = .next i

/-- R151: a buffer that does not begin with the four bytes of `BEAM` fails with `InvalidMagic`, and nothing of the instance
changes; only the host's reply does. -/
def Obligations.LoadRejectsBadMagic : Prop :=
  ∀ (s : State) (buf : List Byte) (rest : List HostOp), s.inbox = .load buf :: rest → ¬ magic <+: buf →
    step s = .next { s with inbox := rest, result := some (.code .invalidMagic), events := [], log := [] }

/-- R152: a buffer with the right magic that is shorter than 6 bytes, than `X + 2`, or than the end of its command table fails
with `TruncatedBuffer`, and nothing of the instance changes. -/
def Obligations.LoadRejectsTruncatedBuffer : Prop :=
  ∀ (s : State) (buf : List Byte) (rest : List HostOp), s.inbox = .load buf :: rest → magic <+: buf →
    (buf.length < 6 ∨ ∃ vc, buf[5]? = some vc ∧
      (buf.length < countOffset s.params.layout vc.toNat + 2 ∨
        ∃ lo hi, buf[countOffset s.params.layout vc.toNat]? = some lo ∧
          buf[countOffset s.params.layout vc.toNat + 1]? = some hi ∧
          buf.length < countOffset s.params.layout vc.toNat + 2 + (lo.toNat + 256 * hi.toNat) * cmdBytes s.params.layout)) →
    step s = .next { s with inbox := rest, result := some (.code .truncatedBuffer), events := [], log := [] }

/-- The success half of R132, with the values of R30's second column: everything but the channel offset is reset, then the new
image and its header are taken. (The parameters, the ghost `lastTick` and the operations to come are the model's own and stay;
`SUPPORTED_VERSION` is unset, R45.) -/
def Obligations.LoadTakesTheProgram : Prop :=
  ∀ (s : State) (buf : List Byte) (rest : List HostOp) (version vc lo hi : Byte), s.inbox = .load buf :: rest →
    s.params.supportedVersion = none → magic <+: buf → buf[4]? = some version → buf[5]? = some vc →
    buf[countOffset s.params.layout vc.toNat]? = some lo → buf[countOffset s.params.layout vc.toNat + 1]? = some hi →
    countOffset s.params.layout vc.toNat + 2 + (lo.toNat + 256 * hi.toNat) * cmdBytes s.params.layout ≤ buf.length →
    step s = .next
      { State.reset with
        params := s.params, inbox := rest, channelOffset := s.channelOffset, lastTick := s.lastTick
        loaded := true, version := version, voiceCount := vc, commandCount := le16 lo hi
        image := Memory.ofBytes buf, result := some (.code .ok) }

/-! ### Reset (10_state.md R30, 70_reset_and_hazards.md) -/

/-- The first column of R30, and R170's initial condition. The channel offset is left out: the spec gives none. -/
def Obligations.ResetIsStoppedAndEmpty : Prop :=
  State.reset.condition = .stopped ∧ State.reset.pc = 0 ∧ State.reset.running = false ∧ State.reset.loaded = false ∧
  State.reset.curChannel = 0 ∧ State.reset.curVoice = 0 ∧ State.reset.due = 0 ∧ State.reset.now = 0 ∧ State.reset.skew = 0 ∧
  State.reset.resync = false ∧ State.reset.version = 0 ∧ State.reset.voiceCount = 0 ∧ State.reset.commandCount = 0 ∧
  (∀ a, State.reset.image.read a = none) ∧ ∀ c, State.reset.notes.get c = none

/-- R131: `construct` sets everything to the reset values with its own channel offset; a buffer given with it is loaded exactly
as by `load`, and the result of that is discarded. (Parameters and operations to come stay: log entry 17.) -/
def Obligations.ConstructIsResetThenLoad : Prop :=
  (∀ (s : State) (offset : U16) (rest : List HostOp), s.inbox = .construct offset none :: rest →
    step s = .next { State.reset with params := s.params, inbox := rest, channelOffset := offset }) ∧
  ∀ (s : State) (offset : U16) (buf : List Byte) (rest : List HostOp), s.inbox = .construct offset (some buf) :: rest →
    step s =
      andThen (step { State.reset with params := s.params, inbox := .load buf :: rest, channelOffset := offset }) fun t =>
        .next { t with result := none, events := [], log := [] }

/-! ### The PCD loop (40_sequencer.md) -/

/-- R75: while not running, an `update` fetches nothing: `pc` and the working registers keep their values and nothing is logged;
the ENV pass of an effective one still reports every note. An effective `update` that reaches no command, because the instance is
not running or its next command is not due, is the time base and then the ENV pass at that engine time, whole (R136). -/
def Obligations.NotRunningDispatchesNothing : Prop :=
  (∀ (s t : State) (tick : U32) (rest : List HostOp), s.inbox = .update tick :: rest → s.running = false → step s = .next t →
    t.running = false ∧ t.pc = s.pc ∧ t.curChannel = s.curChannel ∧ t.curVoice = s.curVoice ∧ t.due = s.due ∧ t.log = [] ∧
    (s.effective = true → t.events.length = s.notes.length)) ∧
  ∀ (s s1 : State) (tick : U32) (rest : List HostOp), s.inbox = .update tick :: rest → s.tickAdmissible tick = true →
    s.effective = true → State.timeBase { s with inbox := rest, lastTick := tick } tick = .next s1 →
    (s.running = false ∨ (s1.pc ≠ s1.commandCount ∧ s1.now.toNat < s1.due.toNat)) →
    step s = andThen (State.envPass { s1 with log := [] }) fun t => .next { t with result := some (.bool true) }

/-- R77: at `pc = command_count` the loop stops the run: `running`, `pc` and `due` become 0, the notes, the working registers and
the log are kept, whatever is left of the cap; and it does so right after the last command, in the same pass. -/
def Obligations.EndOfSongStops : Prop :=
  (∀ (s : State) (k : Nat), s.pc = s.commandCount →
    pcdLoop k s = .next { s with running := false, pc := 0, due := 0 }) ∧
  ∀ (s t : State) (i : Instr) (k : Nat), s.commandDue → s.pc.toNat + 1 = s.commandCount.toNat → s.fetch s.pc = .next i →
    exec i s = .next t → pcdLoop (k + 1) s = .next { t with running := false, pc := 0, due := 0 }

/-- R78: the command at `pc` may execute iff `et >= due`, whatever its opcode; while the gate is closed the loop exits with
everything unchanged; and no command but `WAIT` writes `due`. -/
def Obligations.TimeGateHoldsEveryCommand : Prop :=
  (∀ (s : State) (k : Nat), s.pc ≠ s.commandCount → s.now.toNat < s.due.toNat → pcdLoop k s = .next s) ∧
  (∀ (s t : State) (i : Instr) (k : Nat), s.commandDue → s.fetch s.pc = .next i → exec i s = .next t →
    pcdLoop (k + 1) s = pcdLoop k t) ∧
  ∀ (s t : State) (i : Instr), exec i s = .next t → (∀ x, i ≠ .wait x) → t.due = s.due

/-- R79: an `update` starts with the whole of `STEP_CAP`; every dispatched command takes one; with none left the loop exits at
the first command not executed, and end of song is tested before that. -/
def Obligations.WorkCapBoundsTheLoop : Prop :=
  (∀ s : State, s.running = true → s.sequence = pcdLoop s.params.stepCap s) ∧
  (∀ (s t : State) (i : Instr) (k : Nat), s.commandDue → s.fetch s.pc = .next i → exec i s = .next t →
    pcdLoop (k + 1) s = pcdLoop k t) ∧
  (∀ s : State, s.commandDue → pcdLoop 0 s = .next s) ∧
  ∀ s : State, s.pc = s.commandCount → pcdLoop 0 s = .next { s with running := false, pc := 0, due := 0 }

/-- R76: one pass of the loop moves `pc` on by at most what was left of the cap, and ends either there, still short of the end,
or in the end-of-song transition, which it reaches only if the rest of the program fits under the cap. -/
def Obligations.LoopAdvancesAtMostTheCap : Prop :=
  ∀ (k : Nat) (s t : State), pcdLoop k s = .next t →
    (t.running = s.running ∧ s.pc.toNat ≤ t.pc.toNat ∧ t.pc.toNat ≤ s.pc.toNat + k ∧ t.pc ≠ s.commandCount) ∨
    (t.running = false ∧ t.pc = 0 ∧ t.due = 0 ∧ s.pc.toNat ≤ s.commandCount.toNat ∧ s.commandCount.toNat ≤ s.pc.toNat + k)

/-- A step runs the decoded instruction: when the next operation is an admissible `update` of a running instance, the command
at `pc` is due after the time base is set (R141), and the bytes of its record decode to `i`, the step is `exec i`, then the
rest of the loop, then the ENV pass (R136). -/
def Obligations.StepRunsTheDecodedCommand : Prop :=
  ∀ (s s1 : State) (tick : U32) (rest : List HostOp) (k : Nat) (bs : List Byte) (i : Instr),
    s.inbox = .update tick :: rest → s.tickAdmissible tick = true → s.running = true → s.params.stepCap = k + 1 →
    State.timeBase { s with inbox := rest, lastTick := tick } tick = .next s1 → s1.commandDue →
    s1.image.readBytes (s1.commandOffset s1.pc.toNat) (cmdBytes s1.params.layout) = some bs →
    decode s1.params.layout bs = .ok (i, []) →
    step s = andThen (exec i { s1 with log := [] }) fun t => andThen (pcdLoop k t) fun u => andThen u.envPass fun v =>
      .next { v with result := some (.bool true) }

/-- `withFetchWord` (log entry 6) is what its name says: from any state that meets the invariant, the very next step runs exactly
the command of the word, and nothing after it but the end of song and the ENV pass. -/
def Obligations.FetchWordRunsExactlyThatWord : Prop :=
  ∀ (s : State) (w : Nat), s.Inv → ∃ i s1, decodeTableWord 24 w = some i ∧
    State.timeBase { s.withFetchWord 24 w with inbox := [] } s.lastTick = .next s1 ∧
    step (s.withFetchWord 24 w) = andThen (exec i { s1 with log := [] }) fun t =>
      andThen t.endOfSong.envPass fun v => .next { v with result := some (.bool true) }

/-! ### The commands (40_sequencer.md section 2). Every one completes wherever one is dispatched (`pc < command_count`). -/

/-- R82: `NOP` advances the counter and does nothing else, whatever its operand; its opcode byte is 0; it counts toward the cap. -/
def Obligations.NopOnlyAdvances : Prop :=
  (∀ (x : U16) (s : State), s.pc.toNat < s.commandCount.toNat → exec (.nop x) s = .next { s with pc := s.pc + 1 }) ∧
  (∀ b1 b2 pad rest, decode .packed (0x00 :: b1 :: b2 :: rest) = .ok (.nop (le16 b1 b2), rest) ∧
    decode .aligned (0x00 :: pad :: b1 :: b2 :: rest) = .ok (.nop (le16 b1 b2), rest)) ∧
  ∀ (x : U16) (s : State) (k : Nat), s.commandDue → s.fetch s.pc = .next (.nop x) →
    pcdLoop (k + 1) s = pcdLoop k { s with pc := s.pc + 1 }

/-- R83: `SET_CHANNEL x` sets the current channel to all 16 bits, unvalidated, and advances; no note is touched. -/
def Obligations.SetChannelSetsTheChannel : Prop :=
  (∀ (x : U16) (s : State), s.pc.toNat < s.commandCount.toNat →
    exec (.setChannel x) s = .next { s with curChannel := x, pc := s.pc + 1 }) ∧
  ∀ b1 b2 pad rest, decode .packed (0x01 :: b1 :: b2 :: rest) = .ok (.setChannel (le16 b1 b2), rest) ∧
    decode .aligned (0x01 :: pad :: b1 :: b2 :: rest) = .ok (.setChannel (le16 b1 b2), rest)

/-- R84: `SET_VOICE x` sets the current voice when `x < voice_count` on all 16 bits; otherwise it is skipped, the voice is kept
and `InvalidVoiceIndex` is logged with the command's index. Both advance. -/
def Obligations.SetVoiceValidatesItsIndex : Prop :=
  (∀ (x : U16) (s : State), s.pc.toNat < s.commandCount.toNat → x.toNat < s.voiceCount.toNat →
    exec (.setVoice x) s = .next { s with curVoice := loByte x, pc := s.pc + 1 } ∧ (loByte x).toNat = x.toNat) ∧
  (∀ (x : U16) (s : State), s.pc.toNat < s.commandCount.toNat → s.voiceCount.toNat ≤ x.toNat →
    exec (.setVoice x) s = .next { s with log := s.log ++ [⟨s.pc, .invalidVoiceIndex⟩], pc := s.pc + 1 }) ∧
  ∀ b1 b2 pad rest, decode .packed (0x02 :: b1 :: b2 :: rest) = .ok (.setVoice (le16 b1 b2), rest) ∧
    decode .aligned (0x02 :: pad :: b1 :: b2 :: rest) = .ok (.setVoice (le16 b1 b2), rest)

/-- R85: `PLAY x` puts a note of the current voice, started at the engine time of this update, on the current channel,
replacing what was there (R117) and touching no other channel; with no valid current voice, or else no slot for the
channel, it is skipped and logged. All three advance, and none writes `due`. -/
def Obligations.PlayCreatesTheNote : Prop :=
  (∀ (x : U16) (s : State), s.pc.toNat < s.commandCount.toNat → s.curVoice.toNat < s.voiceCount.toNat →
    s.curChannel.toNat < s.params.nChannels →
    ∃ notes, exec (.play x) s = .next { s with notes := notes, pc := s.pc + 1 } ∧
      notes.get s.curChannel.toNat =
        some { voice := s.curVoice, note := x, start := s.now, off := none, relAmp := 0, phase := .attack, amp := 0 } ∧
      ∀ c, c ≠ s.curChannel.toNat → notes.get c = s.notes.get c) ∧
  (∀ (x : U16) (s : State), s.pc.toNat < s.commandCount.toNat → s.voiceCount.toNat ≤ s.curVoice.toNat →
    exec (.play x) s = .next { s with log := s.log ++ [⟨s.pc, .invalidVoiceIndex⟩], pc := s.pc + 1 }) ∧
  (∀ (x : U16) (s : State), s.pc.toNat < s.commandCount.toNat → s.curVoice.toNat < s.voiceCount.toNat →
    s.params.nChannels ≤ s.curChannel.toNat →
    exec (.play x) s = .next { s with log := s.log ++ [⟨s.pc, .invalidChannel⟩], pc := s.pc + 1 }) ∧
  ∀ b1 b2 pad rest, decode .packed (0x03 :: b1 :: b2 :: rest) = .ok (.play (le16 b1 b2), rest) ∧
    decode .aligned (0x03 :: pad :: b1 :: b2 :: rest) = .ok (.play (le16 b1 b2), rest)

/-- R86: `WAIT x` sets `due` to the engine time of this update plus `x`, without overflow (R18), and advances; with `x > 0` the
next command waits for a later update, with `x = 0` it does not, and as the last command it delays nothing (R77). -/
def Obligations.WaitSetsTheGate : Prop :=
  (∀ (x : U16) (s : State), s.pc.toNat < s.commandCount.toNat → s.now.toNat < tickLimit →
    ∃ due : U32, due.toNat = s.now.toNat + x.toNat ∧ exec (.wait x) s = .next { s with due := due, pc := s.pc + 1 }) ∧
  (∀ (x : U16) (s t : State) (k : Nat), s.commandDue → s.fetch s.pc = .next (.wait x) → exec (.wait x) s = .next t →
    (s.pc.toNat + 1 = s.commandCount.toNat → pcdLoop (k + 1) s = .next t.endOfSong) ∧
    (s.pc.toNat + 1 ≠ s.commandCount.toNat → x ≠ 0 → pcdLoop (k + 1) s = .next t) ∧
    (x = 0 → t.due = s.now ∧ pcdLoop (k + 1) s = pcdLoop k t)) ∧
  ∀ b1 b2 pad rest, decode .packed (0x04 :: b1 :: b2 :: rest) = .ok (.wait (le16 b1 b2), rest) ∧
    decode .aligned (0x04 :: pad :: b1 :: b2 :: rest) = .ok (.wait (le16 b1 b2), rest)

/-- R87: an opcode byte of 5 or more executes as `NOP` and logs `UnknownOpcode` with the command's index; it counts toward the
cap. -/
def Obligations.UnknownOpcodeIsLoggedNop : Prop :=
  (∀ (opcode : Byte) (x : U16) (s : State), s.pc.toNat < s.commandCount.toNat →
    exec (.unknown opcode x) s = .next { s with log := s.log ++ [⟨s.pc, .unknownOpcode⟩], pc := s.pc + 1 }) ∧
  (∀ (opcode : Byte) b1 b2 pad rest, 5 ≤ opcode.toNat →
    decode .packed (opcode :: b1 :: b2 :: rest) = .ok (.unknown opcode (le16 b1 b2), rest) ∧
    decode .aligned (opcode :: pad :: b1 :: b2 :: rest) = .ok (.unknown opcode (le16 b1 b2), rest)) ∧
  ∀ (opcode : Byte) (x : U16) (s : State) (k : Nat), s.commandDue → s.fetch s.pc = .next (.unknown opcode x) →
    pcdLoop (k + 1) s = pcdLoop k { s with log := s.log ++ [⟨s.pc, .unknownOpcode⟩], pc := s.pc + 1 }

/-- R31, R164: the frame of every command. It writes `pc` (by 1), the register that is its own (`cur_channel` for
`SET_CHANNEL`, `cur_voice` for `SET_VOICE`, `due` for `WAIT`, the note of the current channel for `PLAY`), at most one entry
of the log (R160), and nothing else: no flag, no other register, no other slot, and no byte of the image. -/
def Obligations.CommandsTouchOnlyTheirOwn : Prop :=
  ∀ (i : Instr) (s t : State), exec i s = .next t →
    t = { s with
      pc := s.pc + 1, curChannel := t.curChannel, curVoice := t.curVoice, due := t.due, notes := t.notes, log := t.log } ∧
    t.pc.toNat = s.pc.toNat + 1 ∧
    ((∀ x, i ≠ .setChannel x) → t.curChannel = s.curChannel) ∧
    ((∀ x, i ≠ .setVoice x) → t.curVoice = s.curVoice) ∧
    ((∀ x, i ≠ .wait x) → t.due = s.due) ∧
    ((∀ x, i ≠ .play x) → t.notes = s.notes) ∧
    (∀ c, c ≠ s.curChannel.toNat → t.notes.get c = s.notes.get c) ∧
    (t.log = s.log ∨ ∃ e, t.log = s.log ++ [⟨s.pc, e⟩]) ∧
    ∀ a, t.image.read a = s.image.read a

/-- R88, R154: every command, whatever its opcode and operand and whether or not it logs an error, completes with `pc + 1`
wherever one is dispatched, and `pc` stays within `command_count`. -/
def Obligations.EveryCommandCompletes : Prop :=
  ∀ (i : Instr) (s : State), s.pc.toNat < s.commandCount.toNat → s.now.toNat < tickLimit →
    ∃ t, exec i s = .next t ∧ t.pc.toNat = s.pc.toNat + 1 ∧ t.pc.toNat ≤ t.commandCount.toNat

/-! ### The envelope (41_envelope.md) -/

/-- R112: the two formulas and the properties of `lerp`. -/
def Obligations.LerpIsAnExactTruncatedLine : Prop :=
  ∀ a b x len : Nat, 0 < len → x ≤ len →
    (a ≤ b → lerp a b x len = a + (b - a) * x / len) ∧ (b < a → lerp a b x len = a - (a - b) * x / len) ∧
    lerp a b 0 len = a ∧ lerp a b len len = b ∧
    min a b ≤ lerp a b x len ∧ lerp a b x len ≤ max a b ∧
    (∀ x', x ≤ x' → x' ≤ len → (a ≤ b → lerp a b x len ≤ lerp a b x' len) ∧ (b ≤ a → lerp a b x' len ≤ lerp a b x len)) ∧
    (a ≤ b → lerp a b x len * len ≤ a * len + (b - a) * x) ∧
    (b < a → a * len ≤ lerp a b x len * len + (a - b) * x) ∧
    (a ≤ 65535 → b ≤ 65535 → len ≤ 65535 → (b - a) * x < 2 ^ 32 ∧ (a - b) * x < 2 ^ 32)

/-- R105 to R110: the phase and amplitude of a note without note-off, on intervals that do not overlap: each phase owns its
closing instant and not its opening one, except ATTACK, which owns `e = 0`. `env` gives such a note that phase and amplitude at
its elapsed time `et - start` (R104; the half of R115 for a note without note-off). -/
def Obligations.EnvelopeHasItsFivePhases : Prop :=
  (∀ (p : EnvParams) (r : Note) (et : U32), r.off = none → r.start.toNat ≤ et.toNat →
    env p r et = .next (envSounding p (et.toNat - r.start.toNat))) ∧
  ∀ (p : EnvParams) (e : Nat),
    let V := p.volume.toNat
    let A := p.attack.toNat
    let D := p.decay.toNat
    let S := p.sustain.toNat
    let SM := p.hold.toNat
    let R := p.release.toNat
    (e ≤ A → 0 < A → envSounding p e = (.attack, V * e / A)) ∧
    (e = 0 → A = 0 → envSounding p e = (.attack, V)) ∧
    (A < e → e ≤ A + D → S ≤ V → envSounding p e = (.decay, V - (V - S) * (e - A) / D)) ∧
    (A + D < e → e ≤ A + D + SM → envSounding p e = (.sustain, S)) ∧
    (A + D + SM < e → e < A + D + SM + R → envSounding p e = (.release, S - S * (e - (A + D + SM)) / R)) ∧
    (A + D + SM < e → A + D + SM + R ≤ e → envSounding p e = (.done, 0))

/-- R114: the envelope after an accepted note-off. -/
def Obligations.EnvelopeAfterNoteOff : Prop :=
  ∀ (p : EnvParams) (r : Note) (off et : U32), r.off = some off → off.toNat ≤ et.toNat →
    (et = off → env p r et = .next (.release, r.relAmp.toNat)) ∧
    (off.toNat < et.toNat → et.toNat - off.toNat < p.release.toNat →
      env p r et =
        .next (.release, r.relAmp.toNat - r.relAmp.toNat * (et.toNat - off.toNat) / p.release.toNat)) ∧
    (off.toNat < et.toNat → p.release.toNat ≤ et.toNat - off.toNat → env p r et = .next (.done, 0))

/-- R122 (a) to (e): zero at the start of an attack, the peak at its end, non-decreasing through attack, non-increasing from
there on and through every release, never above the volume. -/
def Obligations.EnvelopeRisesThenFalls : Prop :=
  (∀ p : EnvParams, 0 < p.attack.toNat → (envSounding p 0).2 = 0) ∧
  (∀ p : EnvParams, (envSounding p p.attack.toNat).2 = p.volume.toNat) ∧
  (∀ (p : EnvParams) (e e' : Nat), e ≤ e' → e' ≤ p.t1 → (envSounding p e).2 ≤ (envSounding p e').2) ∧
  (∀ (p : EnvParams) (e e' : Nat), p.t3 < e → e ≤ e' → (envSounding p e').2 ≤ (envSounding p e).2) ∧
  (∀ l r z z' : Nat, z ≤ z' → (envReleased l r z').2 ≤ (envReleased l r z).2) ∧
  (∀ (p : EnvParams) (e e' : Nat), p.sustain.toNat ≤ p.volume.toNat → p.t1 ≤ e → e ≤ e' →
    (envSounding p e').2 ≤ (envSounding p e).2) ∧
  (∀ (p : EnvParams) (e : Nat), p.sustain.toNat ≤ p.volume.toNat → (envSounding p e).2 ≤ p.volume.toNat) ∧
  ∀ l r z : Nat, (envReleased l r z).2 ≤ l

/-- R122 (f): shifting `start`, `off` and `et` by the same amount changes nothing. -/
def Obligations.EnvelopeIsShiftInvariant : Prop :=
  ∀ (p : EnvParams) (r : Note) (et d : U32), et.toNat + d.toNat < 2 ^ 32 → r.start.toNat ≤ et.toNat →
    (∀ off ∈ r.off, off.toNat ≤ et.toNat) →
    env p { r with start := r.start + d, off := r.off.map (· + d) } (et + d) = env p r et

/-- R123: there is no indefinite sustain: after `t3` a note without note-off is in RELEASE or DONE, and at the latest at 262140
ms it is DONE. -/
def Obligations.SustainAlwaysEnds : Prop :=
  ∀ (p : EnvParams) (e : Nat),
    (p.t3 < e → (envSounding p e).1 = .release ∨ (envSounding p e).1 = .done) ∧ p.t4 ≤ 262140 ∧
    (p.t4 ≤ e → p.t3 < e → envSounding p e = (.done, 0)) ∧ (262140 ≤ e → envSounding p e = (.done, 0))

/-- R124: the counter view is the envelope. Fed any advances, the phase register and down-counter show the phase and amplitude
`env` gives at their sum, from creation and, at any level `l`, from a note-off on. R124 only intends the agreement; that its
repetition is four moves and that RELEASE with `R = 0` shows its origin is the model's choice (log entry 23). -/
def Obligations.CounterViewIsTheEnvelope : Prop :=
  ∀ (p : EnvParams) (ds : List Nat),
    (let c := ds.foldl (CounterNote.advance p) (CounterNote.create p)
     (c.phase, c.amp p) = envSounding p ds.sum) ∧
    ∀ l : Nat,
      let c := ds.foldl (CounterNote.advance p) (CounterNote.released p l)
      (c.phase, c.amp p) = envReleased l p.release.toNat ds.sum

/-- R113: a note-off at engine time `now` is ignored by a note that has one, and by a note whose automatic release has begun;
otherwise it records `now` and the amplitude the note has there. -/
def Obligations.NoteOffIsAcceptedOnce : Prop :=
  ∀ (s : State) (r : Note) (p : EnvParams), s.envParams r.voice = .next p → r.start.toNat ≤ s.now.toNat →
    (r.off ≠ none → s.noteOff r = .next r) ∧
    (r.off = none → p.t3 ≤ s.now.toNat - r.start.toNat → s.noteOff r = .next r) ∧
    (r.off = none → s.now.toNat - r.start.toNat < p.t3 →
      s.noteOff r = .next
        { r with off := some s.now, relAmp := BitVec.ofNat 16 (envSounding p (s.now.toNat - r.start.toNat)).2 })

/-- R118, R119, R120: the ENV pass reports every note in a slot, in ascending channel order, with its output channel, voice,
identifier, amplitude and phase at this engine time; a note that is DONE is reported once and destroyed, every other keeps
its slot with the new phase and amplitude; nothing else changes. Where the slots are 16-bit channels, as in every state that
meets the invariant, the output channel is `channel_offset + c` itself, not truncated (R161). -/
def Obligations.EnvPassReportsAndRetires : Prop :=
  ∀ s t : State, NoteTable.wf s.notes = true → s.envPass = .next t →
    t = { s with events := t.events, notes := t.notes } ∧ NoteTable.wf t.notes = true ∧
    t.events.map Event.chanOut = s.notes.map (fun c => BitVec.ofNat 17 (s.channelOffset.toNat + c.1)) ∧
    ((s.Inv ∨ ∀ slot ∈ s.notes, slot.1 < 65536) →
      t.events.map (fun e => e.chanOut.toNat) = s.notes.map (fun c => s.channelOffset.toNat + c.1)) ∧
    (∀ c, s.notes.get c = none → t.notes.get c = none) ∧
    ∀ c r, s.notes.get c = some r → ∃ ph a, s.noteEnv r s.now = .next (ph, a) ∧
      ⟨BitVec.ofNat 17 (s.channelOffset.toNat + c), r.voice, r.note, BitVec.ofNat 16 a, ph⟩ ∈ t.events ∧
      t.notes.get c = if ph = .done then none else some { r with phase := ph, amp := BitVec.ofNat 16 a }

/-- R120, R122 (e): in every event the amplitude is within the volume of its voice, in any step from a state that meets the
invariant. -/
def Obligations.EventAmplitudeWithinVolume : Prop :=
  ∀ (s t : State) (p : EnvParams) (e : Event), s.Inv → step s = .next t → s.inbox ≠ [] → e ∈ t.events →
    s.envParams e.voice = .next p → e.amp.toNat ≤ p.volume.toNat

/-- R125, R136: where no engine time passes and no command is due, an effective update reports every note at the amplitude it
had; and none passes in the first effective update after a pause, so a pause stretches an envelope and changes nothing of it. -/
def Obligations.NoEngineTimeNoChange : Prop :=
  ∀ (s t : State) (tick : U32) (rest : List HostOp), s.Inv → s.inbox = .update tick :: rest → s.effective = true →
    step s = .next t →
    (s.resync = true → t.now = s.now) ∧
    (t.now = s.now → (s.running = false ∨ s.now.toNat < s.due.toNat) →
      t.events.map Event.amp = s.notes.map (fun c => c.2.amp) ∧
      t.notes.map (fun c => (c.1, c.2.amp)) = s.notes.map (fun c => (c.1, c.2.amp)))

/-! ### The host operations (42_host_operations.md) -/

/-- R133: `start` sets `running` and nothing else; on an unloaded instance it is rejected and changes nothing. -/
def Obligations.StartRunsOrIsRejected : Prop :=
  ∀ (s : State) (rest : List HostOp), s.inbox = .start :: rest →
    (s.loaded = true →
      step s = .next { s with inbox := rest, running := true, result := some (.bool true), events := [], log := [] }) ∧
    (s.loaded = false → step s = .next { s with inbox := rest, result := some (.bool false), events := [], log := [] })

/-- R134: `pause` clears `running`, and sets `resync` exactly when the instance becomes Paused; not running it changes nothing;
unloaded it is rejected. -/
def Obligations.PauseFreezesTheRun : Prop :=
  ∀ (s : State) (rest : List HostOp), s.inbox = .pause :: rest →
    (s.loaded = true → s.running = true → 0 < s.pc.toNat →
      step s = .next
        { s with inbox := rest, running := false, resync := true, result := some (.bool true), events := [], log := [] }) ∧
    (s.loaded = true → s.running = true → s.pc = 0 →
      step s = .next { s with inbox := rest, running := false, result := some (.bool true), events := [], log := [] }) ∧
    (s.loaded = true → s.running = false →
      step s = .next { s with inbox := rest, result := some (.bool true), events := [], log := [] }) ∧
    (s.loaded = false → step s = .next { s with inbox := rest, result := some (.bool false), events := [], log := [] })

/-- R135: `stop` clears `running`, `pc` and `due`, sends note-off to every note (R113) without destroying any, and leaves the rest;
unloaded it is rejected. -/
def Obligations.StopReleasesEveryNote : Prop :=
  ∀ (s : State) (rest : List HostOp), s.Inv → s.inbox = .stop :: rest →
    (s.loaded = true → ∃ notes,
      step s = .next
        { s with
          inbox := rest, running := false, pc := 0, due := 0, notes := notes
          result := some (.bool true), events := [], log := [] } ∧
      NoteTable.wf notes = true ∧ (∀ c, s.notes.get c = none → notes.get c = none) ∧
      ∀ c r, s.notes.get c = some r → ∃ r', notes.get c = some r' ∧ s.noteOff r = .next r') ∧
    (s.loaded = false → step s = .next { s with inbox := rest, result := some (.bool false), events := [], log := [] })

/-- R137, R138: the queries return `running = 1`, and `running = 0 and pc > 0`, and change nothing. -/
def Obligations.QueriesChangeNothing : Prop :=
  ∀ (s : State) (rest : List HostOp),
    (s.inbox = .isRunning :: rest →
      step s = .next { s with inbox := rest, result := some (.bool s.running), events := [], log := [] }) ∧
    (s.inbox = .isPaused :: rest →
      step s = .next
        { s with
          inbox := rest, events := [], log := []
          result := some (.bool (decide (s.running = false ∧ 0 < s.pc.toNat))) })

/-- R139, for ticks the host may give (log entry 4): while Paused an `update` changes no register, runs nothing and returns true.
The ghost `lastTick` is the model's own. -/
def Obligations.PausedUpdateIsANoOp : Prop :=
  ∀ (s : State) (tick : U32) (rest : List HostOp), s.inbox = .update tick :: rest → s.tickAdmissible tick = true →
    s.condition = .paused →
    step s = .next { s with inbox := rest, lastTick := tick, result := some (.bool true), events := [], log := [] }

/-- R141: the time base of an effective update. -/
def Obligations.TimeBaseAbsorbsThePause : Prop :=
  ∀ (s : State) (tick : U32), s.skew.toNat + s.now.toNat ≤ tick.toNat →
    (s.resync = true → ∃ skew : U32, skew.toNat = tick.toNat - s.now.toNat ∧
      s.timeBase tick = .next { s with skew := skew, resync := false }) ∧
    (s.resync = false → ∃ now : U32, now.toNat = tick.toNat - s.skew.toNat ∧ s.timeBase tick = .next { s with now := now })

/-- R140: an `update` whose tick is below that of the one before it, or at or beyond `TICK_LIMIT`, is refused: never given a
negative, wrapped or clamped time. That this holds of a Paused `update` too, whose tick R139 says is not examined, is the model's
choice of how to read the two rules (log entry 4). -/
def Obligations.BrokenTickDutyIsRefused : Prop :=
  ∀ (s : State) (tick : U32) (rest : List HostOp), s.inbox = .update tick :: rest →
    (tick.toNat < s.lastTick.toNat ∨ 2 ^ 32 - 2 ^ 16 ≤ tick.toNat) → step s = .refused .tickDuty

/-- R142: `load` returns true iff its validation passed; `start`, `pause` and `stop` iff the instance is loaded; `update` always. -/
def Obligations.RepliesFollowTheTable : Prop :=
  ∀ (s t : State) (rest : List HostOp), step s = .next t →
    (∀ buf, s.inbox = .load buf :: rest →
      t.result.map Reply.flag = some (decide (loadCheck s.params.layout buf = .ok))) ∧
    (s.inbox = .start :: rest → t.result = some (.bool s.loaded)) ∧
    (s.inbox = .pause :: rest → t.result = some (.bool s.loaded)) ∧
    (s.inbox = .stop :: rest → t.result = some (.bool s.loaded)) ∧
    ∀ tick, s.inbox = .update tick :: rest → t.result = some (.bool true)

/-- R143: the transitions between Stopped, Running and Paused. -/
def Obligations.ConditionsFollowTheTable : Prop :=
  ∀ (s t : State) (rest : List HostOp), s.loaded = true → step s = .next t →
    (s.inbox = .start :: rest → t.condition = .running) ∧
    (s.inbox = .stop :: rest → t.condition = .stopped) ∧
    (s.inbox = .pause :: rest →
      (s.condition = .running → 0 < s.pc.toNat → t.condition = .paused) ∧
      (s.condition = .running → s.pc = 0 → t.condition = .stopped) ∧
      (s.condition ≠ .running → t.condition = s.condition)) ∧
    (∀ tick, s.inbox = .update tick :: rest →
      (s.condition = .paused → t.condition = .paused) ∧ (s.condition = .stopped → t.condition = .stopped) ∧
      (s.condition = .running → t.condition = .running ∨ (t.condition = .stopped ∧ t.due = 0))) ∧
    (∀ buf, s.inbox = .load buf :: rest →
      t.condition = if loadCheck s.params.layout buf = .ok then .stopped else s.condition) ∧
    ∀ offset buffer, s.inbox = .construct offset buffer :: rest → t.condition = .stopped

/-! ### The whole machine -/

/-- The invariant holds after reset. -/
def Obligations.InvariantHoldsAtReset : Prop := State.reset.Inv

/-- Every step keeps the invariant: the image stays as loaded and long enough, `pc` stays a legal index, the current voice stays
valid, no time register overflows, and every note has an existing voice, ordered times and a current amplitude (R7, R11,
R12, R17, R18, R20, R21, R23, R28, R44, R113). -/
def Obligations.StepKeepsTheInvariant : Prop := ∀ s t : State, s.Inv → step s = .next t → t.Inv

/-- While the host keeps its duty no step is ever refused: every operation completes, whatever program is loaded (R49, R140,
R154, R157, R161). -/
def Obligations.DutifulHostIsNeverRefused : Prop := ∀ s : State, s.Inv → s.hostDuty → ∃ t, step s = .next t

/-- R49, R157, R161: whatever the host does, a step from a state that meets the invariant stops only for a broken duty on ticks,
or a version the optional parameter rejects. No access is out of range and no arithmetic leaves its bounds. -/
def Obligations.OnlyTheHostCausesARefusal : Prop :=
  ∀ (s : State) (r : Refusal), s.Inv → step s = .refused r →
    (r = .tickDuty ∧ ∃ tick rest, s.inbox = .update tick :: rest ∧ s.tickAdmissible tick = false) ∨
    (r = .unsupportedVersion ∧ s.params.supportedVersion ≠ none)

/-- R19, R20: between resets the engine time and the time spent Paused never decrease. Nor does `lastTick`, the model's own ghost of
the host's duty (R140; log entry 4). -/
def Obligations.TimeNeverRunsBackwards : Prop :=
  ∀ (s t : State) (op : HostOp) (rest : List HostOp), s.Inv → s.inbox = op :: rest → op.keepsProgram = true → step s = .next t →
    s.now.toNat ≤ t.now.toNat ∧ s.skew.toNat ≤ t.skew.toNat ∧ s.lastTick.toNat ≤ t.lastTick.toNat

/-- R22, R23, R50: no operation but `construct` and `load` changes a byte of the image, a header register, the channel offset or
`loaded`. That no operation at all changes a parameter, and that each leaves exactly the operations after it to come, is the
model's choice (log entries 1, 2 and 17). -/
def Obligations.ProgramIsImmutable : Prop :=
  ∀ (s t : State) (op : HostOp) (rest : List HostOp), s.inbox = op :: rest → step s = .next t →
    t.params = s.params ∧ t.inbox = rest ∧
    (op.keepsProgram = true →
      (∀ a, t.image.read a = s.image.read a) ∧ t.image = s.image ∧ t.version = s.version ∧ t.voiceCount = s.voiceCount ∧
      t.commandCount = s.commandCount ∧ t.channelOffset = s.channelOffset ∧ t.loaded = s.loaded)

/-- R29: the outputs of an operation are handed to the host and nothing of them is kept: no step depends on the result, the
events or the log of the one before. -/
def Obligations.OutputsAreNeverReadBack : Prop :=
  ∀ (s : State) (op : HostOp) (rest : List HostOp) (result : Option Reply) (events : List Event) (log : List LogEntry),
    s.inbox = op :: rest → step { s with result := result, events := events, log := log } = step s

/-- R26, R42: no rule depends on `waveforms`, `pulse_width`, a pad byte or a byte past the command table: with any other image that
agrees on the bytes that are read, the step is the same. -/
def Obligations.UnreadBytesChangeNothing : Prop :=
  ∀ (s : State) (op : HostOp) (rest : List HostOp) (m : Memory), s.inbox = op :: rest → op.keepsProgram = true →
    (∀ a, s.readsOffset a → m.read a = s.image.read a) →
    step { s with image := m } = andThen (step s) fun t => .next { t with image := m }

/-- R166: instances share no mutable state: an operation on one leaves every other as it was. The list of instances, of which one
transition moves one, is the model's choice (log entry 19). -/
def Obligations.InstancesAreIndependent : Prop :=
  ∀ (sys sys' : System) (k : Fin sys.length), sys.stepAt k = .next sys' →
    sys'.length = sys.length ∧ (∃ t, step sys[k] = .next t ∧ sys'[k.val]? = some t) ∧
    ∀ j, j ≠ k.val → sys'[j]? = sys[j]?

/-- R183: given updates that keep coming with increasing ticks, a run ends: Stopped at command 0 with every slot free. Here the
ticks are at least 262140 ms apart (the longest note of R123) and there are two more of them than commands left. -/
def Obligations.EveryRunFallsSilent : Prop :=
  ∀ (s : State) (ticks : List U32), s.Inv → s.paused = false → s.resync = false → s.inbox = ticks.map HostOp.update →
    ticksSpaced 262140 s.lastTick.toNat ticks → s.commandCount.toNat - s.pc.toNat + 2 ≤ ticks.length →
    ∃ t, Host.Core.run Sys2Proof.core ticks.length s = .next t ∧ t.condition = .stopped ∧ t.notes = [] ∧ t.inbox = []

/-- R7, R102: `sus_amp` is a parameter. Its default is `min(sustain_level, volume)`; whatever it is set to, its value is within the
volume; and it can be set to any function whose values are, so no claim rests on the default. (It is held as a list of
points: the model's choice, log entry 10.) -/
def Obligations.SustainAmplitudeIsAParameter : Prop :=
  (∀ level volume : U16, (susAmp [] level volume).toNat = min level.toNat volume.toNat) ∧
  (∀ (table : List SusPoint) (level volume : U16), (susAmp table level volume).toNat ≤ volume.toNat) ∧
  ∀ f : U16 → U16 → U16, (∀ level volume, (f level volume).toNat ≤ volume.toNat) →
    ∃ table : List SusPoint, ∀ level volume, susAmp table level volume = f level volume
end

