-- ==== Sys2Proof/Laws/State.lean ====
section
/-! SUPPORT. One lemma per field per state update, true by `rfl`, so that no later proof unfolds a record update. -/

namespace Sys2Proof.Machine

variable (s : State)

/-! ### `raise`: only the log changes (R154) -/

@[simp] theorem State.raise_params (e : ErrorCode) : (s.raise e).params = s.params := rfl
@[simp] theorem State.raise_loaded (e : ErrorCode) : (s.raise e).loaded = s.loaded := rfl
@[simp] theorem State.raise_pc (e : ErrorCode) : (s.raise e).pc = s.pc := rfl
@[simp] theorem State.raise_running (e : ErrorCode) : (s.raise e).running = s.running := rfl
@[simp] theorem State.raise_curChannel (e : ErrorCode) : (s.raise e).curChannel = s.curChannel := rfl
@[simp] theorem State.raise_curVoice (e : ErrorCode) : (s.raise e).curVoice = s.curVoice := rfl
@[simp] theorem State.raise_due (e : ErrorCode) : (s.raise e).due = s.due := rfl
@[simp] theorem State.raise_now (e : ErrorCode) : (s.raise e).now = s.now := rfl
@[simp] theorem State.raise_skew (e : ErrorCode) : (s.raise e).skew = s.skew := rfl
@[simp] theorem State.raise_resync (e : ErrorCode) : (s.raise e).resync = s.resync := rfl
@[simp] theorem State.raise_channelOffset (e : ErrorCode) : (s.raise e).channelOffset = s.channelOffset := rfl
@[simp] theorem State.raise_version (e : ErrorCode) : (s.raise e).version = s.version := rfl
@[simp] theorem State.raise_voiceCount (e : ErrorCode) : (s.raise e).voiceCount = s.voiceCount := rfl
@[simp] theorem State.raise_commandCount (e : ErrorCode) : (s.raise e).commandCount = s.commandCount := rfl
@[simp] theorem State.raise_image (e : ErrorCode) : (s.raise e).image = s.image := rfl
@[simp] theorem State.raise_notes (e : ErrorCode) : (s.raise e).notes = s.notes := rfl
@[simp] theorem State.raise_lastTick (e : ErrorCode) : (s.raise e).lastTick = s.lastTick := rfl
@[simp] theorem State.raise_inbox (e : ErrorCode) : (s.raise e).inbox = s.inbox := rfl
@[simp] theorem State.raise_result (e : ErrorCode) : (s.raise e).result = s.result := rfl
@[simp] theorem State.raise_events (e : ErrorCode) : (s.raise e).events = s.events := rfl
@[simp] theorem State.raise_log (e : ErrorCode) : (s.raise e).log = s.log ++ [⟨s.pc, e⟩] := rfl

/-! ### `reply`: only the outputs change -/

@[simp] theorem State.reply_params (r : Option Reply) : (s.reply r).params = s.params := rfl
@[simp] theorem State.reply_loaded (r : Option Reply) : (s.reply r).loaded = s.loaded := rfl
@[simp] theorem State.reply_pc (r : Option Reply) : (s.reply r).pc = s.pc := rfl
@[simp] theorem State.reply_running (r : Option Reply) : (s.reply r).running = s.running := rfl
@[simp] theorem State.reply_curChannel (r : Option Reply) : (s.reply r).curChannel = s.curChannel := rfl
@[simp] theorem State.reply_curVoice (r : Option Reply) : (s.reply r).curVoice = s.curVoice := rfl
@[simp] theorem State.reply_due (r : Option Reply) : (s.reply r).due = s.due := rfl
@[simp] theorem State.reply_now (r : Option Reply) : (s.reply r).now = s.now := rfl
@[simp] theorem State.reply_skew (r : Option Reply) : (s.reply r).skew = s.skew := rfl
@[simp] theorem State.reply_resync (r : Option Reply) : (s.reply r).resync = s.resync := rfl
@[simp] theorem State.reply_channelOffset (r : Option Reply) : (s.reply r).channelOffset = s.channelOffset := rfl
@[simp] theorem State.reply_version (r : Option Reply) : (s.reply r).version = s.version := rfl
@[simp] theorem State.reply_voiceCount (r : Option Reply) : (s.reply r).voiceCount = s.voiceCount := rfl
@[simp] theorem State.reply_commandCount (r : Option Reply) : (s.reply r).commandCount = s.commandCount := rfl
@[simp] theorem State.reply_image (r : Option Reply) : (s.reply r).image = s.image := rfl
@[simp] theorem State.reply_notes (r : Option Reply) : (s.reply r).notes = s.notes := rfl
@[simp] theorem State.reply_lastTick (r : Option Reply) : (s.reply r).lastTick = s.lastTick := rfl
@[simp] theorem State.reply_inbox (r : Option Reply) : (s.reply r).inbox = s.inbox := rfl
@[simp] theorem State.reply_result (r : Option Reply) : (s.reply r).result = r := rfl
@[simp] theorem State.reply_events (r : Option Reply) : (s.reply r).events = [] := rfl
@[simp] theorem State.reply_log (r : Option Reply) : (s.reply r).log = [] := rfl

/-! ### `endOfSong` (R77) -/

@[simp] theorem State.endOfSong_params : (s.endOfSong).params = s.params := rfl
@[simp] theorem State.endOfSong_loaded : (s.endOfSong).loaded = s.loaded := rfl
@[simp] theorem State.endOfSong_pc : (s.endOfSong).pc = 0 := rfl
@[simp] theorem State.endOfSong_running : (s.endOfSong).running = false := rfl
@[simp] theorem State.endOfSong_curChannel : (s.endOfSong).curChannel = s.curChannel := rfl
@[simp] theorem State.endOfSong_curVoice : (s.endOfSong).curVoice = s.curVoice := rfl
@[simp] theorem State.endOfSong_due : (s.endOfSong).due = 0 := rfl
@[simp] theorem State.endOfSong_now : (s.endOfSong).now = s.now := rfl
@[simp] theorem State.endOfSong_skew : (s.endOfSong).skew = s.skew := rfl
@[simp] theorem State.endOfSong_resync : (s.endOfSong).resync = s.resync := rfl
@[simp] theorem State.endOfSong_channelOffset : (s.endOfSong).channelOffset = s.channelOffset := rfl
@[simp] theorem State.endOfSong_version : (s.endOfSong).version = s.version := rfl
@[simp] theorem State.endOfSong_voiceCount : (s.endOfSong).voiceCount = s.voiceCount := rfl
@[simp] theorem State.endOfSong_commandCount : (s.endOfSong).commandCount = s.commandCount := rfl
@[simp] theorem State.endOfSong_image : (s.endOfSong).image = s.image := rfl
@[simp] theorem State.endOfSong_notes : (s.endOfSong).notes = s.notes := rfl
@[simp] theorem State.endOfSong_lastTick : (s.endOfSong).lastTick = s.lastTick := rfl
@[simp] theorem State.endOfSong_inbox : (s.endOfSong).inbox = s.inbox := rfl
@[simp] theorem State.endOfSong_result : (s.endOfSong).result = s.result := rfl
@[simp] theorem State.endOfSong_events : (s.endOfSong).events = s.events := rfl
@[simp] theorem State.endOfSong_log : (s.endOfSong).log = s.log := rfl

/-! ### `constructed` (R30, first column) -/

@[simp] theorem State.constructed_params (offset : U16) : (s.constructed offset).params = s.params := rfl
@[simp] theorem State.constructed_loaded (offset : U16) : (s.constructed offset).loaded = false := rfl
@[simp] theorem State.constructed_pc (offset : U16) : (s.constructed offset).pc = 0 := rfl
@[simp] theorem State.constructed_running (offset : U16) : (s.constructed offset).running = false := rfl
@[simp] theorem State.constructed_curChannel (offset : U16) : (s.constructed offset).curChannel = 0 := rfl
@[simp] theorem State.constructed_curVoice (offset : U16) : (s.constructed offset).curVoice = 0 := rfl
@[simp] theorem State.constructed_due (offset : U16) : (s.constructed offset).due = 0 := rfl
@[simp] theorem State.constructed_now (offset : U16) : (s.constructed offset).now = 0 := rfl
@[simp] theorem State.constructed_skew (offset : U16) : (s.constructed offset).skew = 0 := rfl
@[simp] theorem State.constructed_resync (offset : U16) : (s.constructed offset).resync = false := rfl
@[simp] theorem State.constructed_channelOffset (offset : U16) : (s.constructed offset).channelOffset = offset := rfl
@[simp] theorem State.constructed_version (offset : U16) : (s.constructed offset).version = 0 := rfl
@[simp] theorem State.constructed_voiceCount (offset : U16) : (s.constructed offset).voiceCount = 0 := rfl
@[simp] theorem State.constructed_commandCount (offset : U16) : (s.constructed offset).commandCount = 0 := rfl
@[simp] theorem State.constructed_image (offset : U16) : (s.constructed offset).image = [] := rfl
@[simp] theorem State.constructed_notes (offset : U16) : (s.constructed offset).notes = [] := rfl
@[simp] theorem State.constructed_lastTick (offset : U16) : (s.constructed offset).lastTick = 0 := rfl
@[simp] theorem State.constructed_inbox (offset : U16) : (s.constructed offset).inbox = s.inbox := rfl
@[simp] theorem State.constructed_result (offset : U16) : (s.constructed offset).result = none := rfl
@[simp] theorem State.constructed_events (offset : U16) : (s.constructed offset).events = [] := rfl
@[simp] theorem State.constructed_log (offset : U16) : (s.constructed offset).log = [] := rfl

/-! ### `withProgram` (R30, second column) -/

@[simp] theorem State.withProgram_params (buf : List Byte) : (s.withProgram buf).params = s.params := rfl
@[simp] theorem State.withProgram_loaded (buf : List Byte) : (s.withProgram buf).loaded = true := rfl
@[simp] theorem State.withProgram_pc (buf : List Byte) : (s.withProgram buf).pc = 0 := rfl
@[simp] theorem State.withProgram_running (buf : List Byte) : (s.withProgram buf).running = false := rfl
@[simp] theorem State.withProgram_curChannel (buf : List Byte) : (s.withProgram buf).curChannel = 0 := rfl
@[simp] theorem State.withProgram_curVoice (buf : List Byte) : (s.withProgram buf).curVoice = 0 := rfl
@[simp] theorem State.withProgram_due (buf : List Byte) : (s.withProgram buf).due = 0 := rfl
@[simp] theorem State.withProgram_now (buf : List Byte) : (s.withProgram buf).now = 0 := rfl
@[simp] theorem State.withProgram_skew (buf : List Byte) : (s.withProgram buf).skew = 0 := rfl
@[simp] theorem State.withProgram_resync (buf : List Byte) : (s.withProgram buf).resync = false := rfl
@[simp] theorem State.withProgram_channelOffset (buf : List Byte) : (s.withProgram buf).channelOffset = s.channelOffset := rfl
@[simp] theorem State.withProgram_version (buf : List Byte) : (s.withProgram buf).version = buf.getD 4 0 := rfl
@[simp] theorem State.withProgram_voiceCount (buf : List Byte) : (s.withProgram buf).voiceCount = BitVec.ofNat 8 (bufferVoices buf) := rfl
@[simp] theorem State.withProgram_commandCount (buf : List Byte) : (s.withProgram buf).commandCount = BitVec.ofNat 16 (bufferCommands s.params.layout buf) := rfl
@[simp] theorem State.withProgram_image (buf : List Byte) : (s.withProgram buf).image = Memory.ofBytes buf := rfl
@[simp] theorem State.withProgram_notes (buf : List Byte) : (s.withProgram buf).notes = [] := rfl
@[simp] theorem State.withProgram_lastTick (buf : List Byte) : (s.withProgram buf).lastTick = s.lastTick := rfl
@[simp] theorem State.withProgram_inbox (buf : List Byte) : (s.withProgram buf).inbox = s.inbox := rfl
@[simp] theorem State.withProgram_result (buf : List Byte) : (s.withProgram buf).result = none := rfl
@[simp] theorem State.withProgram_events (buf : List Byte) : (s.withProgram buf).events = [] := rfl
@[simp] theorem State.withProgram_log (buf : List Byte) : (s.withProgram buf).log = [] := rfl

/-! ### `setPc` -/

@[simp] theorem State.setPc_params (v : U16) : (s.setPc v).params = s.params := rfl
@[simp] theorem State.setPc_loaded (v : U16) : (s.setPc v).loaded = s.loaded := rfl
@[simp] theorem State.setPc_pc (v : U16) : (s.setPc v).pc = v := rfl
@[simp] theorem State.setPc_running (v : U16) : (s.setPc v).running = s.running := rfl
@[simp] theorem State.setPc_curChannel (v : U16) : (s.setPc v).curChannel = s.curChannel := rfl
@[simp] theorem State.setPc_curVoice (v : U16) : (s.setPc v).curVoice = s.curVoice := rfl
@[simp] theorem State.setPc_due (v : U16) : (s.setPc v).due = s.due := rfl
@[simp] theorem State.setPc_now (v : U16) : (s.setPc v).now = s.now := rfl
@[simp] theorem State.setPc_skew (v : U16) : (s.setPc v).skew = s.skew := rfl
@[simp] theorem State.setPc_resync (v : U16) : (s.setPc v).resync = s.resync := rfl
@[simp] theorem State.setPc_channelOffset (v : U16) : (s.setPc v).channelOffset = s.channelOffset := rfl
@[simp] theorem State.setPc_version (v : U16) : (s.setPc v).version = s.version := rfl
@[simp] theorem State.setPc_voiceCount (v : U16) : (s.setPc v).voiceCount = s.voiceCount := rfl
@[simp] theorem State.setPc_commandCount (v : U16) : (s.setPc v).commandCount = s.commandCount := rfl
@[simp] theorem State.setPc_image (v : U16) : (s.setPc v).image = s.image := rfl
@[simp] theorem State.setPc_notes (v : U16) : (s.setPc v).notes = s.notes := rfl
@[simp] theorem State.setPc_lastTick (v : U16) : (s.setPc v).lastTick = s.lastTick := rfl
@[simp] theorem State.setPc_inbox (v : U16) : (s.setPc v).inbox = s.inbox := rfl
@[simp] theorem State.setPc_result (v : U16) : (s.setPc v).result = s.result := rfl
@[simp] theorem State.setPc_events (v : U16) : (s.setPc v).events = s.events := rfl
@[simp] theorem State.setPc_log (v : U16) : (s.setPc v).log = s.log := rfl

/-! ### `setCurChannel` -/

@[simp] theorem State.setCurChannel_params (v : U16) : (s.setCurChannel v).params = s.params := rfl
@[simp] theorem State.setCurChannel_loaded (v : U16) : (s.setCurChannel v).loaded = s.loaded := rfl
@[simp] theorem State.setCurChannel_pc (v : U16) : (s.setCurChannel v).pc = s.pc := rfl
@[simp] theorem State.setCurChannel_running (v : U16) : (s.setCurChannel v).running = s.running := rfl
@[simp] theorem State.setCurChannel_curChannel (v : U16) : (s.setCurChannel v).curChannel = v := rfl
@[simp] theorem State.setCurChannel_curVoice (v : U16) : (s.setCurChannel v).curVoice = s.curVoice := rfl
@[simp] theorem State.setCurChannel_due (v : U16) : (s.setCurChannel v).due = s.due := rfl
@[simp] theorem State.setCurChannel_now (v : U16) : (s.setCurChannel v).now = s.now := rfl
@[simp] theorem State.setCurChannel_skew (v : U16) : (s.setCurChannel v).skew = s.skew := rfl
@[simp] theorem State.setCurChannel_resync (v : U16) : (s.setCurChannel v).resync = s.resync := rfl
@[simp] theorem State.setCurChannel_channelOffset (v : U16) : (s.setCurChannel v).channelOffset = s.channelOffset := rfl
@[simp] theorem State.setCurChannel_version (v : U16) : (s.setCurChannel v).version = s.version := rfl
@[simp] theorem State.setCurChannel_voiceCount (v : U16) : (s.setCurChannel v).voiceCount = s.voiceCount := rfl
@[simp] theorem State.setCurChannel_commandCount (v : U16) : (s.setCurChannel v).commandCount = s.commandCount := rfl
@[simp] theorem State.setCurChannel_image (v : U16) : (s.setCurChannel v).image = s.image := rfl
@[simp] theorem State.setCurChannel_notes (v : U16) : (s.setCurChannel v).notes = s.notes := rfl
@[simp] theorem State.setCurChannel_lastTick (v : U16) : (s.setCurChannel v).lastTick = s.lastTick := rfl
@[simp] theorem State.setCurChannel_inbox (v : U16) : (s.setCurChannel v).inbox = s.inbox := rfl
@[simp] theorem State.setCurChannel_result (v : U16) : (s.setCurChannel v).result = s.result := rfl
@[simp] theorem State.setCurChannel_events (v : U16) : (s.setCurChannel v).events = s.events := rfl
@[simp] theorem State.setCurChannel_log (v : U16) : (s.setCurChannel v).log = s.log := rfl

/-! ### `setCurVoice` -/

@[simp] theorem State.setCurVoice_params (v : Byte) : (s.setCurVoice v).params = s.params := rfl
@[simp] theorem State.setCurVoice_loaded (v : Byte) : (s.setCurVoice v).loaded = s.loaded := rfl
@[simp] theorem State.setCurVoice_pc (v : Byte) : (s.setCurVoice v).pc = s.pc := rfl
@[simp] theorem State.setCurVoice_running (v : Byte) : (s.setCurVoice v).running = s.running := rfl
@[simp] theorem State.setCurVoice_curChannel (v : Byte) : (s.setCurVoice v).curChannel = s.curChannel := rfl
@[simp] theorem State.setCurVoice_curVoice (v : Byte) : (s.setCurVoice v).curVoice = v := rfl
@[simp] theorem State.setCurVoice_due (v : Byte) : (s.setCurVoice v).due = s.due := rfl
@[simp] theorem State.setCurVoice_now (v : Byte) : (s.setCurVoice v).now = s.now := rfl
@[simp] theorem State.setCurVoice_skew (v : Byte) : (s.setCurVoice v).skew = s.skew := rfl
@[simp] theorem State.setCurVoice_resync (v : Byte) : (s.setCurVoice v).resync = s.resync := rfl
@[simp] theorem State.setCurVoice_channelOffset (v : Byte) : (s.setCurVoice v).channelOffset = s.channelOffset := rfl
@[simp] theorem State.setCurVoice_version (v : Byte) : (s.setCurVoice v).version = s.version := rfl
@[simp] theorem State.setCurVoice_voiceCount (v : Byte) : (s.setCurVoice v).voiceCount = s.voiceCount := rfl
@[simp] theorem State.setCurVoice_commandCount (v : Byte) : (s.setCurVoice v).commandCount = s.commandCount := rfl
@[simp] theorem State.setCurVoice_image (v : Byte) : (s.setCurVoice v).image = s.image := rfl
@[simp] theorem State.setCurVoice_notes (v : Byte) : (s.setCurVoice v).notes = s.notes := rfl
@[simp] theorem State.setCurVoice_lastTick (v : Byte) : (s.setCurVoice v).lastTick = s.lastTick := rfl
@[simp] theorem State.setCurVoice_inbox (v : Byte) : (s.setCurVoice v).inbox = s.inbox := rfl
@[simp] theorem State.setCurVoice_result (v : Byte) : (s.setCurVoice v).result = s.result := rfl
@[simp] theorem State.setCurVoice_events (v : Byte) : (s.setCurVoice v).events = s.events := rfl
@[simp] theorem State.setCurVoice_log (v : Byte) : (s.setCurVoice v).log = s.log := rfl

/-! ### `setDue` -/

@[simp] theorem State.setDue_params (v : U32) : (s.setDue v).params = s.params := rfl
@[simp] theorem State.setDue_loaded (v : U32) : (s.setDue v).loaded = s.loaded := rfl
@[simp] theorem State.setDue_pc (v : U32) : (s.setDue v).pc = s.pc := rfl
@[simp] theorem State.setDue_running (v : U32) : (s.setDue v).running = s.running := rfl
@[simp] theorem State.setDue_curChannel (v : U32) : (s.setDue v).curChannel = s.curChannel := rfl
@[simp] theorem State.setDue_curVoice (v : U32) : (s.setDue v).curVoice = s.curVoice := rfl
@[simp] theorem State.setDue_due (v : U32) : (s.setDue v).due = v := rfl
@[simp] theorem State.setDue_now (v : U32) : (s.setDue v).now = s.now := rfl
@[simp] theorem State.setDue_skew (v : U32) : (s.setDue v).skew = s.skew := rfl
@[simp] theorem State.setDue_resync (v : U32) : (s.setDue v).resync = s.resync := rfl
@[simp] theorem State.setDue_channelOffset (v : U32) : (s.setDue v).channelOffset = s.channelOffset := rfl
@[simp] theorem State.setDue_version (v : U32) : (s.setDue v).version = s.version := rfl
@[simp] theorem State.setDue_voiceCount (v : U32) : (s.setDue v).voiceCount = s.voiceCount := rfl
@[simp] theorem State.setDue_commandCount (v : U32) : (s.setDue v).commandCount = s.commandCount := rfl
@[simp] theorem State.setDue_image (v : U32) : (s.setDue v).image = s.image := rfl
@[simp] theorem State.setDue_notes (v : U32) : (s.setDue v).notes = s.notes := rfl
@[simp] theorem State.setDue_lastTick (v : U32) : (s.setDue v).lastTick = s.lastTick := rfl
@[simp] theorem State.setDue_inbox (v : U32) : (s.setDue v).inbox = s.inbox := rfl
@[simp] theorem State.setDue_result (v : U32) : (s.setDue v).result = s.result := rfl
@[simp] theorem State.setDue_events (v : U32) : (s.setDue v).events = s.events := rfl
@[simp] theorem State.setDue_log (v : U32) : (s.setDue v).log = s.log := rfl

/-! ### `setNow` -/

@[simp] theorem State.setNow_params (v : U32) : (s.setNow v).params = s.params := rfl
@[simp] theorem State.setNow_loaded (v : U32) : (s.setNow v).loaded = s.loaded := rfl
@[simp] theorem State.setNow_pc (v : U32) : (s.setNow v).pc = s.pc := rfl
@[simp] theorem State.setNow_running (v : U32) : (s.setNow v).running = s.running := rfl
@[simp] theorem State.setNow_curChannel (v : U32) : (s.setNow v).curChannel = s.curChannel := rfl
@[simp] theorem State.setNow_curVoice (v : U32) : (s.setNow v).curVoice = s.curVoice := rfl
@[simp] theorem State.setNow_due (v : U32) : (s.setNow v).due = s.due := rfl
@[simp] theorem State.setNow_now (v : U32) : (s.setNow v).now = v := rfl
@[simp] theorem State.setNow_skew (v : U32) : (s.setNow v).skew = s.skew := rfl
@[simp] theorem State.setNow_resync (v : U32) : (s.setNow v).resync = s.resync := rfl
@[simp] theorem State.setNow_channelOffset (v : U32) : (s.setNow v).channelOffset = s.channelOffset := rfl
@[simp] theorem State.setNow_version (v : U32) : (s.setNow v).version = s.version := rfl
@[simp] theorem State.setNow_voiceCount (v : U32) : (s.setNow v).voiceCount = s.voiceCount := rfl
@[simp] theorem State.setNow_commandCount (v : U32) : (s.setNow v).commandCount = s.commandCount := rfl
@[simp] theorem State.setNow_image (v : U32) : (s.setNow v).image = s.image := rfl
@[simp] theorem State.setNow_notes (v : U32) : (s.setNow v).notes = s.notes := rfl
@[simp] theorem State.setNow_lastTick (v : U32) : (s.setNow v).lastTick = s.lastTick := rfl
@[simp] theorem State.setNow_inbox (v : U32) : (s.setNow v).inbox = s.inbox := rfl
@[simp] theorem State.setNow_result (v : U32) : (s.setNow v).result = s.result := rfl
@[simp] theorem State.setNow_events (v : U32) : (s.setNow v).events = s.events := rfl
@[simp] theorem State.setNow_log (v : U32) : (s.setNow v).log = s.log := rfl

/-! ### `rebase` -/

@[simp] theorem State.rebase_params (v : U32) : (s.rebase v).params = s.params := rfl
@[simp] theorem State.rebase_loaded (v : U32) : (s.rebase v).loaded = s.loaded := rfl
@[simp] theorem State.rebase_pc (v : U32) : (s.rebase v).pc = s.pc := rfl
@[simp] theorem State.rebase_running (v : U32) : (s.rebase v).running = s.running := rfl
@[simp] theorem State.rebase_curChannel (v : U32) : (s.rebase v).curChannel = s.curChannel := rfl
@[simp] theorem State.rebase_curVoice (v : U32) : (s.rebase v).curVoice = s.curVoice := rfl
@[simp] theorem State.rebase_due (v : U32) : (s.rebase v).due = s.due := rfl
@[simp] theorem State.rebase_now (v : U32) : (s.rebase v).now = s.now := rfl
@[simp] theorem State.rebase_skew (v : U32) : (s.rebase v).skew = v := rfl
@[simp] theorem State.rebase_resync (v : U32) : (s.rebase v).resync = false := rfl
@[simp] theorem State.rebase_channelOffset (v : U32) : (s.rebase v).channelOffset = s.channelOffset := rfl
@[simp] theorem State.rebase_version (v : U32) : (s.rebase v).version = s.version := rfl
@[simp] theorem State.rebase_voiceCount (v : U32) : (s.rebase v).voiceCount = s.voiceCount := rfl
@[simp] theorem State.rebase_commandCount (v : U32) : (s.rebase v).commandCount = s.commandCount := rfl
@[simp] theorem State.rebase_image (v : U32) : (s.rebase v).image = s.image := rfl
@[simp] theorem State.rebase_notes (v : U32) : (s.rebase v).notes = s.notes := rfl
@[simp] theorem State.rebase_lastTick (v : U32) : (s.rebase v).lastTick = s.lastTick := rfl
@[simp] theorem State.rebase_inbox (v : U32) : (s.rebase v).inbox = s.inbox := rfl
@[simp] theorem State.rebase_result (v : U32) : (s.rebase v).result = s.result := rfl
@[simp] theorem State.rebase_events (v : U32) : (s.rebase v).events = s.events := rfl
@[simp] theorem State.rebase_log (v : U32) : (s.rebase v).log = s.log := rfl

/-! ### `setNotes` -/

@[simp] theorem State.setNotes_params (t : NoteTable) : (s.setNotes t).params = s.params := rfl
@[simp] theorem State.setNotes_loaded (t : NoteTable) : (s.setNotes t).loaded = s.loaded := rfl
@[simp] theorem State.setNotes_pc (t : NoteTable) : (s.setNotes t).pc = s.pc := rfl
@[simp] theorem State.setNotes_running (t : NoteTable) : (s.setNotes t).running = s.running := rfl
@[simp] theorem State.setNotes_curChannel (t : NoteTable) : (s.setNotes t).curChannel = s.curChannel := rfl
@[simp] theorem State.setNotes_curVoice (t : NoteTable) : (s.setNotes t).curVoice = s.curVoice := rfl
@[simp] theorem State.setNotes_due (t : NoteTable) : (s.setNotes t).due = s.due := rfl
@[simp] theorem State.setNotes_now (t : NoteTable) : (s.setNotes t).now = s.now := rfl
@[simp] theorem State.setNotes_skew (t : NoteTable) : (s.setNotes t).skew = s.skew := rfl
@[simp] theorem State.setNotes_resync (t : NoteTable) : (s.setNotes t).resync = s.resync := rfl
@[simp] theorem State.setNotes_channelOffset (t : NoteTable) : (s.setNotes t).channelOffset = s.channelOffset := rfl
@[simp] theorem State.setNotes_version (t : NoteTable) : (s.setNotes t).version = s.version := rfl
@[simp] theorem State.setNotes_voiceCount (t : NoteTable) : (s.setNotes t).voiceCount = s.voiceCount := rfl
@[simp] theorem State.setNotes_commandCount (t : NoteTable) : (s.setNotes t).commandCount = s.commandCount := rfl
@[simp] theorem State.setNotes_image (t : NoteTable) : (s.setNotes t).image = s.image := rfl
@[simp] theorem State.setNotes_notes (t : NoteTable) : (s.setNotes t).notes = t := rfl
@[simp] theorem State.setNotes_lastTick (t : NoteTable) : (s.setNotes t).lastTick = s.lastTick := rfl
@[simp] theorem State.setNotes_inbox (t : NoteTable) : (s.setNotes t).inbox = s.inbox := rfl
@[simp] theorem State.setNotes_result (t : NoteTable) : (s.setNotes t).result = s.result := rfl
@[simp] theorem State.setNotes_events (t : NoteTable) : (s.setNotes t).events = s.events := rfl
@[simp] theorem State.setNotes_log (t : NoteTable) : (s.setNotes t).log = s.log := rfl

/-! ### `setPass` -/

@[simp] theorem State.setPass_params (out : List Event × NoteTable) : (s.setPass out).params = s.params := rfl
@[simp] theorem State.setPass_loaded (out : List Event × NoteTable) : (s.setPass out).loaded = s.loaded := rfl
@[simp] theorem State.setPass_pc (out : List Event × NoteTable) : (s.setPass out).pc = s.pc := rfl
@[simp] theorem State.setPass_running (out : List Event × NoteTable) : (s.setPass out).running = s.running := rfl
@[simp] theorem State.setPass_curChannel (out : List Event × NoteTable) : (s.setPass out).curChannel = s.curChannel := rfl
@[simp] theorem State.setPass_curVoice (out : List Event × NoteTable) : (s.setPass out).curVoice = s.curVoice := rfl
@[simp] theorem State.setPass_due (out : List Event × NoteTable) : (s.setPass out).due = s.due := rfl
@[simp] theorem State.setPass_now (out : List Event × NoteTable) : (s.setPass out).now = s.now := rfl
@[simp] theorem State.setPass_skew (out : List Event × NoteTable) : (s.setPass out).skew = s.skew := rfl
@[simp] theorem State.setPass_resync (out : List Event × NoteTable) : (s.setPass out).resync = s.resync := rfl
@[simp] theorem State.setPass_channelOffset (out : List Event × NoteTable) : (s.setPass out).channelOffset = s.channelOffset := rfl
@[simp] theorem State.setPass_version (out : List Event × NoteTable) : (s.setPass out).version = s.version := rfl
@[simp] theorem State.setPass_voiceCount (out : List Event × NoteTable) : (s.setPass out).voiceCount = s.voiceCount := rfl
@[simp] theorem State.setPass_commandCount (out : List Event × NoteTable) : (s.setPass out).commandCount = s.commandCount := rfl
@[simp] theorem State.setPass_image (out : List Event × NoteTable) : (s.setPass out).image = s.image := rfl
@[simp] theorem State.setPass_notes (out : List Event × NoteTable) : (s.setPass out).notes = out.2 := rfl
@[simp] theorem State.setPass_lastTick (out : List Event × NoteTable) : (s.setPass out).lastTick = s.lastTick := rfl
@[simp] theorem State.setPass_inbox (out : List Event × NoteTable) : (s.setPass out).inbox = s.inbox := rfl
@[simp] theorem State.setPass_result (out : List Event × NoteTable) : (s.setPass out).result = s.result := rfl
@[simp] theorem State.setPass_events (out : List Event × NoteTable) : (s.setPass out).events = out.1 := rfl
@[simp] theorem State.setPass_log (out : List Event × NoteTable) : (s.setPass out).log = s.log := rfl

/-! ### `setLastTick` -/

@[simp] theorem State.setLastTick_params (v : U32) : (s.setLastTick v).params = s.params := rfl
@[simp] theorem State.setLastTick_loaded (v : U32) : (s.setLastTick v).loaded = s.loaded := rfl
@[simp] theorem State.setLastTick_pc (v : U32) : (s.setLastTick v).pc = s.pc := rfl
@[simp] theorem State.setLastTick_running (v : U32) : (s.setLastTick v).running = s.running := rfl
@[simp] theorem State.setLastTick_curChannel (v : U32) : (s.setLastTick v).curChannel = s.curChannel := rfl
@[simp] theorem State.setLastTick_curVoice (v : U32) : (s.setLastTick v).curVoice = s.curVoice := rfl
@[simp] theorem State.setLastTick_due (v : U32) : (s.setLastTick v).due = s.due := rfl
@[simp] theorem State.setLastTick_now (v : U32) : (s.setLastTick v).now = s.now := rfl
@[simp] theorem State.setLastTick_skew (v : U32) : (s.setLastTick v).skew = s.skew := rfl
@[simp] theorem State.setLastTick_resync (v : U32) : (s.setLastTick v).resync = s.resync := rfl
@[simp] theorem State.setLastTick_channelOffset (v : U32) : (s.setLastTick v).channelOffset = s.channelOffset := rfl
@[simp] theorem State.setLastTick_version (v : U32) : (s.setLastTick v).version = s.version := rfl
@[simp] theorem State.setLastTick_voiceCount (v : U32) : (s.setLastTick v).voiceCount = s.voiceCount := rfl
@[simp] theorem State.setLastTick_commandCount (v : U32) : (s.setLastTick v).commandCount = s.commandCount := rfl
@[simp] theorem State.setLastTick_image (v : U32) : (s.setLastTick v).image = s.image := rfl
@[simp] theorem State.setLastTick_notes (v : U32) : (s.setLastTick v).notes = s.notes := rfl
@[simp] theorem State.setLastTick_lastTick (v : U32) : (s.setLastTick v).lastTick = v := rfl
@[simp] theorem State.setLastTick_inbox (v : U32) : (s.setLastTick v).inbox = s.inbox := rfl
@[simp] theorem State.setLastTick_result (v : U32) : (s.setLastTick v).result = s.result := rfl
@[simp] theorem State.setLastTick_events (v : U32) : (s.setLastTick v).events = s.events := rfl
@[simp] theorem State.setLastTick_log (v : U32) : (s.setLastTick v).log = s.log := rfl

/-! ### `setInbox` -/

@[simp] theorem State.setInbox_params (ops : List HostOp) : (s.setInbox ops).params = s.params := rfl
@[simp] theorem State.setInbox_loaded (ops : List HostOp) : (s.setInbox ops).loaded = s.loaded := rfl
@[simp] theorem State.setInbox_pc (ops : List HostOp) : (s.setInbox ops).pc = s.pc := rfl
@[simp] theorem State.setInbox_running (ops : List HostOp) : (s.setInbox ops).running = s.running := rfl
@[simp] theorem State.setInbox_curChannel (ops : List HostOp) : (s.setInbox ops).curChannel = s.curChannel := rfl
@[simp] theorem State.setInbox_curVoice (ops : List HostOp) : (s.setInbox ops).curVoice = s.curVoice := rfl
@[simp] theorem State.setInbox_due (ops : List HostOp) : (s.setInbox ops).due = s.due := rfl
@[simp] theorem State.setInbox_now (ops : List HostOp) : (s.setInbox ops).now = s.now := rfl
@[simp] theorem State.setInbox_skew (ops : List HostOp) : (s.setInbox ops).skew = s.skew := rfl
@[simp] theorem State.setInbox_resync (ops : List HostOp) : (s.setInbox ops).resync = s.resync := rfl
@[simp] theorem State.setInbox_channelOffset (ops : List HostOp) : (s.setInbox ops).channelOffset = s.channelOffset := rfl
@[simp] theorem State.setInbox_version (ops : List HostOp) : (s.setInbox ops).version = s.version := rfl
@[simp] theorem State.setInbox_voiceCount (ops : List HostOp) : (s.setInbox ops).voiceCount = s.voiceCount := rfl
@[simp] theorem State.setInbox_commandCount (ops : List HostOp) : (s.setInbox ops).commandCount = s.commandCount := rfl
@[simp] theorem State.setInbox_image (ops : List HostOp) : (s.setInbox ops).image = s.image := rfl
@[simp] theorem State.setInbox_notes (ops : List HostOp) : (s.setInbox ops).notes = s.notes := rfl
@[simp] theorem State.setInbox_lastTick (ops : List HostOp) : (s.setInbox ops).lastTick = s.lastTick := rfl
@[simp] theorem State.setInbox_inbox (ops : List HostOp) : (s.setInbox ops).inbox = ops := rfl
@[simp] theorem State.setInbox_result (ops : List HostOp) : (s.setInbox ops).result = s.result := rfl
@[simp] theorem State.setInbox_events (ops : List HostOp) : (s.setInbox ops).events = s.events := rfl
@[simp] theorem State.setInbox_log (ops : List HostOp) : (s.setInbox ops).log = s.log := rfl

/-! ### `setLog` -/

@[simp] theorem State.setLog_params (l : List LogEntry) : (s.setLog l).params = s.params := rfl
@[simp] theorem State.setLog_loaded (l : List LogEntry) : (s.setLog l).loaded = s.loaded := rfl
@[simp] theorem State.setLog_pc (l : List LogEntry) : (s.setLog l).pc = s.pc := rfl
@[simp] theorem State.setLog_running (l : List LogEntry) : (s.setLog l).running = s.running := rfl
@[simp] theorem State.setLog_curChannel (l : List LogEntry) : (s.setLog l).curChannel = s.curChannel := rfl
@[simp] theorem State.setLog_curVoice (l : List LogEntry) : (s.setLog l).curVoice = s.curVoice := rfl
@[simp] theorem State.setLog_due (l : List LogEntry) : (s.setLog l).due = s.due := rfl
@[simp] theorem State.setLog_now (l : List LogEntry) : (s.setLog l).now = s.now := rfl
@[simp] theorem State.setLog_skew (l : List LogEntry) : (s.setLog l).skew = s.skew := rfl
@[simp] theorem State.setLog_resync (l : List LogEntry) : (s.setLog l).resync = s.resync := rfl
@[simp] theorem State.setLog_channelOffset (l : List LogEntry) : (s.setLog l).channelOffset = s.channelOffset := rfl
@[simp] theorem State.setLog_version (l : List LogEntry) : (s.setLog l).version = s.version := rfl
@[simp] theorem State.setLog_voiceCount (l : List LogEntry) : (s.setLog l).voiceCount = s.voiceCount := rfl
@[simp] theorem State.setLog_commandCount (l : List LogEntry) : (s.setLog l).commandCount = s.commandCount := rfl
@[simp] theorem State.setLog_image (l : List LogEntry) : (s.setLog l).image = s.image := rfl
@[simp] theorem State.setLog_notes (l : List LogEntry) : (s.setLog l).notes = s.notes := rfl
@[simp] theorem State.setLog_lastTick (l : List LogEntry) : (s.setLog l).lastTick = s.lastTick := rfl
@[simp] theorem State.setLog_inbox (l : List LogEntry) : (s.setLog l).inbox = s.inbox := rfl
@[simp] theorem State.setLog_result (l : List LogEntry) : (s.setLog l).result = s.result := rfl
@[simp] theorem State.setLog_events (l : List LogEntry) : (s.setLog l).events = s.events := rfl
@[simp] theorem State.setLog_log (l : List LogEntry) : (s.setLog l).log = l := rfl

/-! ### `setResult` -/

@[simp] theorem State.setResult_params (r : Option Reply) : (s.setResult r).params = s.params := rfl
@[simp] theorem State.setResult_loaded (r : Option Reply) : (s.setResult r).loaded = s.loaded := rfl
@[simp] theorem State.setResult_pc (r : Option Reply) : (s.setResult r).pc = s.pc := rfl
@[simp] theorem State.setResult_running (r : Option Reply) : (s.setResult r).running = s.running := rfl
@[simp] theorem State.setResult_curChannel (r : Option Reply) : (s.setResult r).curChannel = s.curChannel := rfl
@[simp] theorem State.setResult_curVoice (r : Option Reply) : (s.setResult r).curVoice = s.curVoice := rfl
@[simp] theorem State.setResult_due (r : Option Reply) : (s.setResult r).due = s.due := rfl
@[simp] theorem State.setResult_now (r : Option Reply) : (s.setResult r).now = s.now := rfl
@[simp] theorem State.setResult_skew (r : Option Reply) : (s.setResult r).skew = s.skew := rfl
@[simp] theorem State.setResult_resync (r : Option Reply) : (s.setResult r).resync = s.resync := rfl
@[simp] theorem State.setResult_channelOffset (r : Option Reply) : (s.setResult r).channelOffset = s.channelOffset := rfl
@[simp] theorem State.setResult_version (r : Option Reply) : (s.setResult r).version = s.version := rfl
@[simp] theorem State.setResult_voiceCount (r : Option Reply) : (s.setResult r).voiceCount = s.voiceCount := rfl
@[simp] theorem State.setResult_commandCount (r : Option Reply) : (s.setResult r).commandCount = s.commandCount := rfl
@[simp] theorem State.setResult_image (r : Option Reply) : (s.setResult r).image = s.image := rfl
@[simp] theorem State.setResult_notes (r : Option Reply) : (s.setResult r).notes = s.notes := rfl
@[simp] theorem State.setResult_lastTick (r : Option Reply) : (s.setResult r).lastTick = s.lastTick := rfl
@[simp] theorem State.setResult_inbox (r : Option Reply) : (s.setResult r).inbox = s.inbox := rfl
@[simp] theorem State.setResult_result (r : Option Reply) : (s.setResult r).result = r := rfl
@[simp] theorem State.setResult_events (r : Option Reply) : (s.setResult r).events = s.events := rfl
@[simp] theorem State.setResult_log (r : Option Reply) : (s.setResult r).log = s.log := rfl

end Sys2Proof.Machine
end

