-- ==== Sys2Proof/Laws/Ops.lean ====
section
/-! SUPPORT. What the shared operations can do: outcomes in sequence, sorted lists, the image, the note table, `advance`. -/

namespace Sys2Proof.Machine

section Outcomes

variable {α β : Type}

@[simp] theorem andThen_next (a : α) (f : α → Res β) : andThen (.next a) f = f a := rfl
@[simp] theorem andThen_refused (r : Refusal) (f : α → Res β) : andThen (.refused r) f = .refused r := rfl

/-- A sequence answers a state exactly when both parts do. -/
theorem andThen_eq_next {o : Res α} {f : α → Res β} {b : β} :
    andThen o f = .next b ↔ ∃ a, o = .next a ∧ f a = .next b := by
  cases o <;> simp [andThen]

/-- A sequence is refused exactly when its first part is, or its second after it. -/
theorem andThen_eq_refused {o : Res α} {f : α → Res β} {r : Refusal} :
    andThen o f = .refused r ↔ o = .refused r ∨ ∃ a, o = .next a ∧ f a = .refused r := by
  cases o <;> simp [andThen]

/-- `orRefuse` answers exactly the value there is. -/
@[simp] theorem orRefuse_eq_next {o : Option α} {r : Refusal} {a : α} : orRefuse o r = .next a ↔ o = some a := by
  cases o <;> simp [orRefuse]

@[simp] theorem orRefuse_eq_refused {o : Option α} {r r' : Refusal} :
    (orRefuse o r : Res α) = .refused r' ↔ o = none ∧ r = r' := by
  cases o <;> simp [orRefuse]

/-- No part of the machine ends in a fault: there is none (R154). -/
theorem res_cases (o : Res α) : (∃ a, o = .next a) ∨ ∃ r, o = .refused r := by
  cases o with
  | next a => exact .inl ⟨a, rfl⟩
  | fault f => cases f
  | refused r => exact .inr ⟨r, rfl⟩

end Outcomes

section SortedLists

variable {α : Type}

/-- Reading the key just written gives the value written. -/
@[simp] theorem lookupKey_insertKey_same (k : Nat) (v : α) (l : List (Nat × α)) :
    lookupKey k (insertKey k v l) = some v := by
  induction l with
  | nil => simp [insertKey, lookupKey]
  | cons c l ih =>
    obtain ⟨a, w⟩ := c
    simp only [insertKey]
    split
    · simp [lookupKey]
    · split
      · simp [lookupKey]
      · rename_i _ h; simp [lookupKey, Ne.symm h, ih]

/-- Writing one key leaves every other as it was. -/
theorem lookupKey_insertKey_other {k k' : Nat} (h : k' ≠ k) (v : α) (l : List (Nat × α)) :
    lookupKey k' (insertKey k v l) = lookupKey k' l := by
  induction l with
  | nil => simp [insertKey, lookupKey, Ne.symm h]
  | cons c l ih =>
    obtain ⟨a, w⟩ := c
    simp only [insertKey]
    split
    · simp [lookupKey, Ne.symm h]
    · split
      · rename_i _ hka; subst hka; simp [lookupKey, Ne.symm h]
      · simp [lookupKey, ih]

/-- Every entry after a write is the one written or an old one. -/
theorem mem_insertKey {k : Nat} {v : α} {l : List (Nat × α)} {c : Nat × α} (h : c ∈ insertKey k v l) :
    c = (k, v) ∨ c ∈ l := by
  induction l with
  | nil => exact .inl (by simpa [insertKey] using h)
  | cons d l ih =>
    obtain ⟨a, w⟩ := d
    simp only [insertKey] at h
    split at h
    · simpa using h
    · split at h
      · exact (List.mem_cons.1 h).imp id (List.mem_cons_of_mem _)
      · rcases List.mem_cons.1 h with h | h
        · exact .inr (h ▸ List.mem_cons_self)
        · exact (ih h).imp id (List.mem_cons_of_mem _)

/-- A write keeps the canonical form. -/
theorem keysRise_insertKey {k : Nat} {v : α} {l : List (Nat × α)} (h : keysRise l = true) :
    keysRise (insertKey k v l) = true := by
  induction l with
  | nil => simp [insertKey, keysRise]
  | cons c l ih =>
    obtain ⟨a, w⟩ := c
    have h' := h
    simp only [keysRise, Bool.and_eq_true, List.all_eq_true, decide_eq_true_eq] at h'
    simp only [insertKey]
    split
    · rename_i hka
      simp only [keysRise, Bool.and_eq_true, List.all_eq_true, decide_eq_true_eq]
      refine ⟨fun c hc => ?_, h'⟩
      rcases List.mem_cons.1 hc with hc | hc
      · subst hc; exact hka
      · have := h'.1 c hc; omega
    · split
      · rename_i _ hka; subst hka; simpa [keysRise] using h'
      · rename_i hka hne
        simp only [keysRise, Bool.and_eq_true, List.all_eq_true, decide_eq_true_eq]
        refine ⟨fun c hc => ?_, ih h'.2⟩
        rcases mem_insertKey hc with hc | hc
        · subst hc; simp; omega
        · exact h'.1 c hc

/-- In canonical form an entry is what its key reads as. -/
theorem lookupKey_eq_some_iff {l : List (Nat × α)} (h : keysRise l = true) {k : Nat} {v : α} :
    lookupKey k l = some v ↔ (k, v) ∈ l := by
  induction l with
  | nil => simp [lookupKey]
  | cons c l ih =>
    obtain ⟨a, w⟩ := c
    simp only [keysRise, Bool.and_eq_true, List.all_eq_true, decide_eq_true_eq] at h
    simp only [lookupKey, List.mem_cons, Prod.mk.injEq]
    split
    · rename_i hak
      subst hak
      constructor
      · intro hv; exact .inl ⟨rfl, by simpa using hv.symm⟩
      · rintro (hv | hv)
        · simp [hv.2]
        · have := h.1 _ hv; simp at this
    · rename_i hak
      rw [ih h.2]
      constructor
      · exact .inr
      · rintro (hv | hv)
        · exact absurd hv.1.symm hak
        · exact hv

/-- In canonical form an old entry that survives a write has another key. -/
theorem mem_insertKey_of_keysRise {l : List (Nat × α)} (h : keysRise l = true) {k : Nat} {v : α} {c : Nat × α}
    (hc : c ∈ insertKey k v l) : c = (k, v) ∨ (c ∈ l ∧ c.1 ≠ k) := by
  obtain ⟨a, w⟩ := c
  rw [← lookupKey_eq_some_iff (keysRise_insertKey h)] at hc
  by_cases hak : a = k
  · subst hak; left; simpa [eq_comm] using hc
  · rw [lookupKey_insertKey_other hak, lookupKey_eq_some_iff h] at hc; exact .inr ⟨hc, hak⟩

/-- A key that no entry has reads as nothing. -/
theorem lookupKey_eq_none_iff {l : List (Nat × α)} {k : Nat} : lookupKey k l = none ↔ ∀ c ∈ l, c.1 ≠ k := by
  induction l with
  | nil => simp [lookupKey]
  | cons c l ih =>
    obtain ⟨a, w⟩ := c
    simp only [lookupKey, List.forall_mem_cons]
    split
    · simp_all
    · simp_all

end SortedLists

/-! ### The image -/

/-- Reading a byte just put gives it. -/
@[simp] theorem Memory.read_put_same (m : Memory) (a : Nat) (b : Byte) : (m.put a b).read a = some b :=
  lookupKey_insertKey_same a b m

/-- Putting a byte leaves every other offset alone. -/
theorem Memory.read_put_other {a a' : Nat} (h : a' ≠ a) (m : Memory) (b : Byte) : (m.put a b).read a' = m.read a' :=
  lookupKey_insertKey_other h b m

/-- Putting a byte keeps the canonical form. -/
theorem Memory.wf_put {m : Memory} (h : m.wf = true) (a : Nat) (b : Byte) : (m.put a b).wf = true :=
  keysRise_insertKey h

/-- Putting bytes keeps the canonical form. -/
theorem Memory.wf_putAll {m : Memory} (h : m.wf = true) (a : Nat) (bs : List Byte) : (m.putAll a bs).wf = true := by
  induction bs generalizing m a with
  | nil => exact h
  | cons b bs ih => exact ih (Memory.wf_put h a b) (a + 1)

/-- The bytes of a buffer, offset by offset. -/
theorem Memory.read_ofBytesAt (a k : Nat) (bs : List Byte) :
    (Memory.ofBytesAt a bs).read k = if k < a then none else bs[k - a]? := by
  induction bs generalizing a with
  | nil => simp [Memory.ofBytesAt, Memory.read, lookupKey]
  | cons b bs ih =>
    have step : (Memory.ofBytesAt a (b :: bs)).read k =
        if a = k then some b else (Memory.ofBytesAt (a + 1) bs).read k := rfl
    rw [step, ih]
    by_cases h : a = k
    · subst h; simp
    · by_cases h' : k < a
      · simp [h, h', Nat.lt_succ_of_lt h']
      · have hk : k - a = (k - (a + 1)) + 1 := by omega
        have hk' : ¬ k < a + 1 := by omega
        simp [h, h', hk', hk]

/-- `image[a]` is byte `a` of the buffer captured at load, and no byte exists beyond it (R44, R49). -/
@[simp] theorem Memory.read_ofBytes (bs : List Byte) (k : Nat) : (Memory.ofBytes bs).read k = bs[k]? := by
  simp [Memory.ofBytes, Memory.read_ofBytesAt]

theorem Memory.mem_ofBytesAt {a : Nat} {bs : List Byte} {c : Host.Cell} (h : c ∈ Memory.ofBytesAt a bs) : a ≤ c.1 := by
  induction bs generalizing a with
  | nil => simp [Memory.ofBytesAt] at h
  | cons b bs ih =>
    rcases List.mem_cons.1 h with h | h
    · subst h; exact Nat.le_refl _
    · have := ih h; omega

/-- A loaded image is in canonical form. -/
theorem Memory.wf_ofBytesAt (a : Nat) (bs : List Byte) : (Memory.ofBytesAt a bs).wf = true := by
  induction bs generalizing a with
  | nil => rfl
  | cons b bs ih =>
    simp only [Memory.ofBytesAt, Memory.wf, keysRise, Bool.and_eq_true, List.all_eq_true, decide_eq_true_eq]
    exact ⟨fun c hc => Memory.mem_ofBytesAt hc, ih (a + 1)⟩

theorem Memory.wf_ofBytes (bs : List Byte) : (Memory.ofBytes bs).wf = true := Memory.wf_ofBytesAt 0 bs

@[simp] theorem Memory.length_ofBytesAt (a : Nat) (bs : List Byte) : (Memory.ofBytesAt a bs).length = bs.length := by
  induction bs generalizing a with
  | nil => rfl
  | cons b bs ih => simp [Memory.ofBytesAt, ih]

@[simp] theorem Memory.length_ofBytes (bs : List Byte) : (Memory.ofBytes bs).length = bs.length :=
  Memory.length_ofBytesAt 0 bs

@[simp] theorem Memory.map_snd_ofBytesAt (a : Nat) (bs : List Byte) : (Memory.ofBytesAt a bs).map Prod.snd = bs := by
  induction bs generalizing a with
  | nil => rfl
  | cons b bs ih => simp [Memory.ofBytesAt, ih]

@[simp] theorem Memory.map_snd_ofBytes (bs : List Byte) : (Memory.ofBytes bs).map Prod.snd = bs :=
  Memory.map_snd_ofBytesAt 0 bs

/-- A read of consecutive bytes answers them exactly when each is there. -/
theorem Memory.readBytes_eq_some {m : Memory} {a n : Nat} {bs : List Byte} :
    m.readBytes a n = some bs ↔ bs.length = n ∧ ∀ k, k < n → m.read (a + k) = bs[k]? := by
  induction n generalizing a bs with
  | zero =>
    simp only [Memory.readBytes, Option.some.injEq, Nat.not_lt_zero, false_implies, implies_true, and_true]
    constructor
    · intro h; simp [← h]
    · intro h; exact (List.eq_nil_of_length_eq_zero h).symm
  | succ n ih =>
    simp only [Memory.readBytes]
    constructor
    · intro h
      split at h
      · rename_i b cs hb hcs
        obtain rfl : b :: cs = bs := by simpa using h
        obtain ⟨hl, hr⟩ := ih.1 hcs
        refine ⟨by simp [hl], fun k hk => ?_⟩
        cases k with
        | zero => simpa using hb
        | succ k =>
          have := hr k (by omega)
          rw [show a + (k + 1) = a + 1 + k by omega, this]; simp
      · simp at h
    · rintro ⟨hl, hr⟩
      cases bs with
      | nil => simp at hl
      | cons b cs =>
        have h0 : m.read a = some b := by simpa using hr 0 (by omega)
        have h1 : m.readBytes (a + 1) n = some cs := by
          refine ih.2 ⟨by simpa using hl, fun k hk => ?_⟩
          have := hr (k + 1) (by omega)
          rw [show a + 1 + k = a + (k + 1) by omega, this]; simp
        simp [h0, h1]

/-- `MemRead(addr, 1)` answers exactly the byte there is (R47, R49). -/
@[simp] theorem memRead8_eq_next {m : Memory} {a : Nat} {b : Byte} : memRead8 m a = .next b ↔ m.read a = some b := by
  simp [memRead8]

/-- `MemRead(addr, 2)` answers exactly the two bytes there are, the first less significant (R47). -/
theorem memRead16_eq_next {m : Memory} {a : Nat} {x : U16} :
    memRead16 m a = .next x ↔ ∃ lo hi, m.read a = some lo ∧ m.read (a + 1) = some hi ∧ x = le16 lo hi := by
  simp only [memRead16, andThen_eq_next, memRead8_eq_next, Host.Outcome.next.injEq]
  constructor
  · rintro ⟨lo, h1, hi, h2, h3⟩; exact ⟨lo, hi, h1, h2, h3.symm⟩
  · rintro ⟨lo, hi, h1, h2, h3⟩; exact ⟨lo, h1, hi, h2, h3.symm⟩

/-- A read of two bytes stops only for a byte that does not exist. -/
theorem memRead16_eq_refused {m : Memory} {a : Nat} {r : Refusal} (h : memRead16 m a = .refused r) :
    r = .imageOutOfRange := by
  simp only [memRead16, memRead8, andThen_eq_refused, orRefuse_eq_refused, reduceCtorEq, and_false, exists_false, or_false] at h
  rcases h with h | ⟨_, _, h⟩ <;> exact h.2.symm

/-! ### Byte order -/

/-- The number two bytes stand for (R47). -/
theorem toNat_le16 (lo hi : Byte) : (le16 lo hi).toNat = lo.toNat + 256 * hi.toNat := by
  have := lo.isLt
  simp only [le16, BitVec.toNat_append, Nat.shiftLeft_eq]
  rw [← Nat.shiftLeft_eq, ← Nat.shiftLeft_add_eq_or_of_lt this, Nat.shiftLeft_eq]
  omega

@[simp] theorem le16_loByte_hiByte (x : U16) : le16 (loByte x) (hiByte x) = x := by
  apply BitVec.eq_of_toNat_eq
  rw [toNat_le16]
  have := x.isLt
  simp only [loByte, hiByte, BitVec.extractLsb'_toNat, Nat.shiftRight_eq_div_pow]
  omega

@[simp] theorem loByte_le16 (lo hi : Byte) : loByte (le16 lo hi) = lo := by
  apply BitVec.eq_of_toNat_eq
  have := lo.isLt
  simp only [loByte, BitVec.extractLsb'_toNat, toNat_le16, Nat.shiftRight_zero]
  omega

@[simp] theorem hiByte_le16 (lo hi : Byte) : hiByte (le16 lo hi) = hi := by
  apply BitVec.eq_of_toNat_eq
  have := lo.isLt
  have := hi.isLt
  simp only [hiByte, BitVec.extractLsb'_toNat, toNat_le16, Nat.shiftRight_eq_div_pow]
  omega

/-! ### The note table -/

@[simp] theorem NoteTable.get_set_same (t : NoteTable) (c : Nat) (r : Note) : (t.set c r).get c = some r :=
  lookupKey_insertKey_same c r t

theorem NoteTable.get_set_other {c c' : Nat} (h : c' ≠ c) (t : NoteTable) (r : Note) : (t.set c r).get c' = t.get c' :=
  lookupKey_insertKey_other h r t

theorem NoteTable.wf_set {t : NoteTable} (h : t.wf = true) (c : Nat) (r : Note) : (t.set c r).wf = true :=
  keysRise_insertKey h

/-- In canonical form a slot of the list is what its channel holds. -/
theorem NoteTable.get_eq_some {t : NoteTable} (h : t.wf = true) {c : Nat} {r : Note} : t.get c = some r ↔ (c, r) ∈ t :=
  lookupKey_eq_some_iff h

/-! ### The end of a command -/

/-- All `advance` can do (R88). -/
theorem State.advance_eq_next {s t : State} :
    s.advance = .next t ↔ s.pc.toNat + 1 < 65536 ∧ t = { s with pc := s.pc + 1 } := by
  unfold State.advance State.setPc
  split
  · simp_all [eq_comm]
  · simp_all

/-- `pc + 1` does not wrap where a command is dispatched (R88). -/
theorem pc_succ_toNat {pc : U16} (h : pc.toNat + 1 < 65536) : (pc + 1).toNat = pc.toNat + 1 := by
  rw [BitVec.toNat_add]
  simpa using Nat.mod_eq_of_lt h

end Sys2Proof.Machine
end

