-- ==== Sys2Proof/Laws/Envelope.lean ====
section
/-! SUPPORT. What the reads through an index, the envelope, note-off and the ENV pass can do. -/

namespace Sys2Proof.Machine

/-- All a fetch can answer (R80): the command of the opcode byte and the operand at index `i < command_count`. -/
theorem State.fetch_eq_next {s : State} {i : U16} {j : Instr} :
    s.fetch i = .next j ↔ i.toNat < s.commandCount.toNat ∧ ∃ opcode operand,
      s.image.read (s.commandOffset i.toNat) = some opcode ∧
      memRead16 s.image (s.commandOffset i.toNat + operandOffset s.params.layout) = .next operand ∧
      j = instrOf opcode operand := by
  unfold State.fetch
  split
  · rename_i h
    simp only [andThen_eq_next, memRead8_eq_next, Host.Outcome.next.injEq, h, true_and]
    constructor
    · rintro ⟨opcode, h1, operand, h2, rfl⟩; exact ⟨opcode, operand, h1, h2, rfl⟩
    · rintro ⟨opcode, operand, h1, h2, rfl⟩; exact ⟨opcode, h1, operand, h2, rfl⟩
  · rename_i h; simp [h]

/-- All the read of a voice's envelope fields can answer (R102). -/
theorem State.envParams_eq_next {s : State} {v : Byte} {p : EnvParams} :
    s.envParams v = .next p ↔ v.toNat < s.voiceCount.toNat ∧ ∃ level,
      s.voiceField v .volume = .next p.volume ∧ s.voiceField v .attackMs = .next p.attack ∧
      s.voiceField v .decayMs = .next p.decay ∧ s.voiceField v .sustainLevel = .next level ∧
      s.voiceField v .sustainMs = .next p.hold ∧ s.voiceField v .releaseMs = .next p.release ∧
      p.sustain = susAmp s.params.susAmp level p.volume := by
  unfold State.envParams
  split
  · rename_i h
    simp only [h, true_and, andThen_eq_next, Host.Outcome.next.injEq]
    constructor
    · rintro ⟨vol, h1, a, h2, d, h3, l, h4, m, h5, r, h6, rfl⟩
      exact ⟨l, h1, h2, h3, h4, h5, h6, rfl⟩
    · rintro ⟨l, h1, h2, h3, h4, h5, h6, h7⟩
      exact ⟨_, h1, _, h2, _, h3, l, h4, _, h5, _, h6, by cases p; simp_all⟩
  · rename_i h; simp [h]

/-- The sustain amplitude never exceeds the volume (R102). -/
theorem susAmp_le (table : List SusPoint) (level volume : U16) : (susAmp table level volume).toNat ≤ volume.toNat := by
  unfold susAmp; split <;> omega

/-- The default of the parameter `sus_amp` (R7): the smaller of the two. -/
theorem susAmp_default (level volume : U16) : (susAmp [] level volume).toNat = min level.toNat volume.toNat := by
  unfold susAmp susLevel; split <;> omega

/-- A point of the parameter `sus_amp`, first in the table, is its value there. -/
theorem susLevel_cons_same (e : SusPoint) (table : List SusPoint) : susLevel (e :: table) e.level e.volume = e.amp :=
  if_pos ⟨rfl, rfl⟩

/-- Elsewhere the rest of the table decides. -/
theorem susLevel_cons_other {e : SusPoint} {level volume : U16} (h : ¬ (e.level = level ∧ e.volume = volume))
    (table : List SusPoint) : susLevel (e :: table) level volume = susLevel table level volume := if_neg h

/-- Every voice the image holds has `S <= V` (R102). -/
theorem State.envParams_sustain_le {s : State} {v : Byte} {p : EnvParams} (h : s.envParams v = .next p) :
    p.sustain.toNat ≤ p.volume.toNat := by
  obtain ⟨_, level, _, _, _, _, _, _, hs⟩ := State.envParams_eq_next.1 h
  exact hs ▸ susAmp_le _ level p.volume

/-- The breakpoints in terms of the voice's times (R103). -/
theorem EnvParams.t1_eq (p : EnvParams) : p.t1 = p.attack.toNat := rfl
theorem EnvParams.t2_eq (p : EnvParams) : p.t2 = p.t1 + p.decay.toNat := rfl
theorem EnvParams.t3_eq (p : EnvParams) : p.t3 = p.t2 + p.hold.toNat := rfl
theorem EnvParams.t4_eq (p : EnvParams) : p.t4 = p.t3 + p.release.toNat := rfl

/-! The rows of R105, one lemma each. -/

theorem envSounding_attack {p : EnvParams} {e : Nat} (h : e ≤ p.t1) : envSounding p e = (.attack, attackAmp p e) := by
  simp only [envSounding, h, if_true]

theorem envSounding_decay {p : EnvParams} {e : Nat} (h : p.t1 < e) (h' : e ≤ p.t2) :
    envSounding p e = (.decay, decayAmp p e) := by
  simp only [envSounding, Nat.not_le.2 h, h', if_true, if_false]

theorem envSounding_sustain {p : EnvParams} {e : Nat} (h : p.t2 < e) (h' : e ≤ p.t3) :
    envSounding p e = (.sustain, p.sustain.toNat) := by
  have h1 : ¬ e ≤ p.t1 := by have := p.t2_eq; omega
  simp only [envSounding, h1, Nat.not_le.2 h, h', if_true, if_false]

theorem envSounding_release {p : EnvParams} {e : Nat} (h : p.t3 < e) (h' : e < p.t4) :
    envSounding p e = (.release, releaseAmp p e) := by
  have h1 : ¬ e ≤ p.t1 := by have := p.t2_eq; have := p.t3_eq; omega
  have h2 : ¬ e ≤ p.t2 := by have := p.t3_eq; omega
  simp only [envSounding, h1, h2, Nat.not_le.2 h, h', if_true, if_false]

theorem envSounding_done {p : EnvParams} {e : Nat} (h : p.t3 < e) (h' : p.t4 ≤ e) : envSounding p e = (.done, 0) := by
  have h1 : ¬ e ≤ p.t1 := by have := p.t2_eq; have := p.t3_eq; omega
  have h2 : ¬ e ≤ p.t2 := by have := p.t3_eq; omega
  simp only [envSounding, h1, h2, Nat.not_le.2 h, Nat.not_lt.2 h', if_false]

/-- Which row an elapsed time falls under (R105): exactly one. -/
theorem EnvParams.elapsed_cases (p : EnvParams) (e : Nat) :
    e ≤ p.t1 ∨ (p.t1 < e ∧ e ≤ p.t2) ∨ (p.t2 < e ∧ e ≤ p.t3) ∨ (p.t3 < e ∧ e < p.t4) ∨ (p.t3 < e ∧ p.t4 ≤ e) := by
  omega

/-! The rows of R114, one lemma each. -/

@[simp] theorem envReleased_zero (l r : Nat) : envReleased l r 0 = (.release, l) := rfl

theorem envReleased_ramp {l r z : Nat} (h : 0 < z) (h' : z < r) : envReleased l r z = (.release, lerp l 0 z r) := by
  simp only [envReleased, Nat.ne_of_gt h, h', if_true, if_false]

theorem envReleased_done {l r z : Nat} (h : 0 < z) (h' : r ≤ z) : envReleased l r z = (.done, 0) := by
  simp only [envReleased, Nat.ne_of_gt h, Nat.not_lt.2 h', if_false]

/-- All the envelope of a sounding note can answer (R115). -/
theorem env_of_sounding {p : EnvParams} {r : Note} (h : r.off = none) {et : U32} {pa : Phase × Nat} :
    env p r et = .next pa ↔ r.start.toNat ≤ et.toNat ∧ pa = envSounding p (et.toNat - r.start.toNat) := by
  simp only [env, h]
  split <;> simp_all [eq_comm]

/-- All the envelope of a released note can answer (R114, R115). -/
theorem env_of_released {p : EnvParams} {r : Note} {off : U32} (h : r.off = some off) {et : U32} {pa : Phase × Nat} :
    env p r et = .next pa ↔
      off.toNat ≤ et.toNat ∧ pa = envReleased r.relAmp.toNat p.release.toNat (et.toNat - off.toNat) := by
  simp only [env, h]
  split <;> simp_all [eq_comm]

/-- The envelope of a note reads its voice from the image (R102). -/
theorem State.noteEnv_eq_next {s : State} {r : Note} {et : U32} {pa : Phase × Nat} :
    s.noteEnv r et = .next pa ↔ ∃ p, s.envParams r.voice = .next p ∧ env p r et = .next pa := by
  simp [State.noteEnv, andThen_eq_next]

/-- All a note-off can do to an occupied slot (R113). -/
theorem State.noteOff_eq_next {s : State} {r r' : Note} (h : s.noteOff r = .next r') :
    (r.off.isSome = true ∧ r' = r) ∨
    (r.off = none ∧ ∃ p pa, s.envParams r.voice = .next p ∧ env p r s.now = .next pa ∧
      ((p.t3 ≤ s.now.toNat - r.start.toNat ∧ r' = r) ∨
       (s.now.toNat - r.start.toNat < p.t3 ∧ r' = { r with off := some s.now, relAmp := BitVec.ofNat 16 pa.2 }))) := by
  unfold State.noteOff at h
  split at h
  · rename_i off hoff; left; simp_all
  · rename_i hoff
    right
    simp only [andThen_eq_next] at h
    obtain ⟨p, hp, pa, hpa, h⟩ := h
    refine ⟨hoff, p, pa, hp, hpa, ?_⟩
    split at h
    · rename_i ht; exact .inl ⟨ht, by simpa using h.symm⟩
    · rename_i ht; exact .inr ⟨by omega, by simpa using h.symm⟩

/-- Note-off for every slot works slot by slot and keeps the channels (R135). -/
theorem State.noteOffAll_eq_next {s : State} {l l' : NoteTable} :
    s.noteOffAll l = .next l' ↔ List.Forall₂ (fun c c' => c'.1 = c.1 ∧ s.noteOff c.2 = .next c'.2) l l' := by
  induction l generalizing l' with
  | nil => simp [State.noteOffAll, eq_comm]
  | cons c l ih =>
    obtain ⟨k, r⟩ := c
    simp only [State.noteOffAll, andThen_eq_next, List.forall₂_cons_left_iff, ih, Host.Outcome.next.injEq]
    constructor
    · rintro ⟨r', hr, m, hm, rfl⟩; exact ⟨(k, r'), m, ⟨rfl, hr⟩, hm, rfl⟩
    · rintro ⟨⟨k', r'⟩, m, ⟨hk, hr⟩, hm, rfl⟩
      simp only at hk hr; subst hk
      exact ⟨r', hr, m, hm, rfl⟩

/-- The ENV pass evaluates each slot once, reports it, and keeps or destroys it (R119). -/
theorem State.envNotes_eq_next {s : State} {et : U32} {l : NoteTable} {out : List Event × NoteTable} :
    s.envNotes et l = .next out ↔ ∃ pas, List.Forall₂ (fun c pa => s.noteEnv c.2 et = .next pa) l pas ∧
      out.1 = List.zipWith (fun c pa => s.eventOf c.1 c.2 pa) l pas ∧
      out.2 = (List.zipWith (fun c pa => keepNote c.1 c.2 pa) l pas).flatten := by
  induction l generalizing out with
  | nil =>
    simp only [State.envNotes, Host.Outcome.next.injEq]
    constructor
    · rintro rfl; exact ⟨[], by simp⟩
    · rintro ⟨pas, h, h1, h2⟩; cases out; simp_all
  | cons c l ih =>
    obtain ⟨k, r⟩ := c
    simp only [State.envNotes, andThen_eq_next, ih, Host.Outcome.next.injEq]
    constructor
    · rintro ⟨pa, hpa, out', ⟨pas, hp, h1, h2⟩, rfl⟩
      exact ⟨pa :: pas, .cons hpa hp, by simp [h1], by simp [h2]⟩
    · rintro ⟨pas, hp, h1, h2⟩
      cases hp with
      | cons hpa hp =>
        rename_i pa pas
        refine ⟨pa, hpa, (_, _), ⟨pas, hp, rfl, rfl⟩, ?_⟩
        cases out; simp_all

/-- A slot after its evaluation keeps its channel, voice, identifier and times (R119). -/
theorem mem_keepNote {c : Nat} {r : Note} {pa : Phase × Nat} {slot : Nat × Note} (h : slot ∈ keepNote c r pa) :
    pa.1 ≠ .done ∧ slot = (c, { r with phase := pa.1, amp := BitVec.ofNat 16 pa.2 }) := by
  unfold keepNote at h
  split at h
  · simp at h
  · exact ⟨by assumption, by simpa using h⟩

/-- The ENV pass writes the events and the note table, and nothing else (R119). -/
theorem State.envPass_eq_next {s t : State} :
    s.envPass = .next t ↔ ∃ out, s.envNotes s.now s.notes = .next out ∧ t = { s with events := out.1, notes := out.2 } := by
  simp only [State.envPass, State.setPass, andThen_eq_next, Host.Outcome.next.injEq, eq_comm (b := t)]

end Sys2Proof.Machine
end

