-- ==== Sys2Proof/Laws/HostOps.lean ====
section
/-! SUPPORT. What the PCD loop and the parts of `update` can do. -/

namespace Sys2Proof.Machine

/-! ### The PCD loop: one equation per way it goes (R76) -/

/-- End of song (R77), whatever is left of the cap. -/
theorem pcdLoop_end {s : State} (h : s.pc = s.commandCount) (k : Nat) : pcdLoop k s = .next s.endOfSong := by
  cases k <;> simp [pcdLoop, h]

/-- The time gate is closed (R78). -/
theorem pcdLoop_closed {s : State} (h : s.pc ≠ s.commandCount) (hg : s.now.toNat < s.due.toNat) (k : Nat) :
    pcdLoop k s = .next s := by
  cases k <;> simp [pcdLoop, h, hg]

/-- The work cap is used up (R79). -/
theorem pcdLoop_cap {s : State} (h : s.pc ≠ s.commandCount) (hg : s.due.toNat ≤ s.now.toNat) : pcdLoop 0 s = .next s := by
  simp [pcdLoop, h, Nat.not_lt.2 hg]

/-- A command is fetched and dispatched (R80, R81). -/
theorem pcdLoop_dispatch {s : State} (h : s.pc ≠ s.commandCount) (hg : s.due.toNat ≤ s.now.toNat) (k : Nat) :
    pcdLoop (k + 1) s = andThen (s.fetch s.pc) fun i => andThen (exec i s) fun t => pcdLoop k t := by
  simp [pcdLoop, h, Nat.not_lt.2 hg]

/-- The induction over the loop, once: what every dispatched command keeps holds where the loop exits, or just before its
end-of-song transition. -/
theorem pcdLoop_keeps {P : State → Prop}
    (hstep : ∀ s i t, P s → s.pc ≠ s.commandCount → s.due.toNat ≤ s.now.toNat → s.fetch s.pc = .next i →
      exec i s = .next t → P t) {k : Nat} {s t : State} (hs : P s) (h : pcdLoop k s = .next t) :
    (∃ u, P u ∧ u.pc = u.commandCount ∧ t = u.endOfSong) ∨ (P t ∧ t.pc ≠ t.commandCount) := by
  induction k generalizing s with
  | zero =>
    by_cases he : s.pc = s.commandCount
    · rw [pcdLoop_end he] at h; exact .inl ⟨s, hs, he, by simpa using h.symm⟩
    · have : t = s := by
        by_cases hg : s.now.toNat < s.due.toNat
        · rw [pcdLoop_closed he hg] at h; simpa using h.symm
        · rw [pcdLoop_cap he (Nat.not_lt.1 hg)] at h; simpa using h.symm
      subst this; exact .inr ⟨hs, he⟩
  | succ k ih =>
    by_cases he : s.pc = s.commandCount
    · rw [pcdLoop_end he] at h; exact .inl ⟨s, hs, he, by simpa using h.symm⟩
    · by_cases hg : s.now.toNat < s.due.toNat
      · rw [pcdLoop_closed he hg] at h
        obtain rfl : s = t := by simpa using h
        exact .inr ⟨hs, he⟩
      · have hg' := Nat.not_lt.1 hg
        rw [pcdLoop_dispatch he hg'] at h
        simp only [andThen_eq_next] at h
        obtain ⟨i, hi, u, hu, h⟩ := h
        exact ih (hstep s i u hs he hg' hi hu) h

/-! ### The parts of `update` -/

/-- All the time base can do (R141). -/
theorem State.timeBase_eq_next {s t : State} {tick : U32} :
    s.timeBase tick = .next t ↔
      (s.resync = true ∧ s.now.toNat ≤ tick.toNat ∧ t = { s with skew := tick - s.now, resync := false }) ∨
      (s.resync = false ∧ s.skew.toNat + s.now.toNat ≤ tick.toNat ∧ t = { s with now := tick - s.skew }) := by
  unfold State.timeBase State.setNow State.rebase
  cases hr : s.resync
  · simp only [Bool.false_eq_true, ↓reduceIte, false_and, true_and, false_or]
    split <;> rename_i hle <;> simp only [hle, true_and, false_and, Host.Outcome.next.injEq, eq_comm (b := t), reduceCtorEq]
  · simp only [↓reduceIte, true_and, Bool.true_eq_false, false_and, or_false]
    split <;> rename_i hle <;> simp only [hle, true_and, false_and, Host.Outcome.next.injEq, eq_comm (b := t), reduceCtorEq]

/-- The difference of two times does not wrap where the model computes it. -/
theorem sub_toNat {a b : U32} (h : b.toNat ≤ a.toNat) : (a - b).toNat = a.toNat - b.toNat :=
  BitVec.toNat_sub_of_le h

/-- All an effective update can do (R136): time base, loop, ENV pass. -/
theorem State.effectiveUpdate_eq_next {s t : State} {tick : U32} :
    s.effectiveUpdate tick = .next t ↔ ∃ s1 s2 s3, s.timeBase tick = .next s1 ∧
      State.sequence { s1 with log := [] } = .next s2 ∧ s2.envPass = .next s3 ∧
      t = { s3 with result := some (.bool true) } := by
  simp only [State.effectiveUpdate, State.setLog, State.setResult, andThen_eq_next, Host.Outcome.next.injEq]
  constructor
  · rintro ⟨s1, h1, s2, h2, s3, h3, rfl⟩; exact ⟨s1, s2, s3, h1, h2, h3, rfl⟩
  · rintro ⟨s1, s2, s3, h1, h2, h3, rfl⟩; exact ⟨s1, h1, s2, h2, s3, h3, rfl⟩

/-- All an update can answer (R136, R139, R140). -/
theorem State.update_eq_next {s t : State} {tick : U32} (h : s.update tick = .next t) :
    s.tickAdmissible tick = true ∧
      ((s.paused = true ∧ t = State.reply { s with lastTick := tick } (some (.bool true))) ∨
       (s.paused = false ∧ State.effectiveUpdate { s with lastTick := tick } tick = .next t)) := by
  unfold State.update State.setLastTick at h
  split at h
  · rename_i hd
    refine ⟨hd, ?_⟩
    split at h
    · rename_i hp; exact .inl ⟨hp, by simpa using h.symm⟩
    · rename_i hp; exact .inr ⟨by simpa using hp, h⟩
  · simp at h

/-- With nothing to come a step changes nothing. -/
theorem step_idle {s : State} (h : s.inbox = []) : step s = .next s := by simp [step, h]

/-- A step is the next host operation. -/
theorem step_cons {s : State} {op : HostOp} {rest : List HostOp} (h : s.inbox = op :: rest) :
    step s = hostOp op { s with inbox := rest } := by simp [step, State.setInbox, h]

end Sys2Proof.Machine
end

