-- ==== Sys2Proof/Laws/PerInstr.lean ====
section
/-! SUPPORT. One fact per constructor of `Instr`: a command's record has `CMD_BYTES` bytes and begins with its opcode byte (R46,
R60, R65). -/

namespace Sys2Proof.Laws.RecordShape

/-- The record of a command has the layout's length, whatever the command (R65), and its first byte is the opcode (R46). -/
def Statement (i : Instr) : Prop :=
  ∀ lay, (encode lay i).length = cmdBytes lay ∧ (encode lay i).head? = some (opcodeOf i)

theorem nop (x : U16) : Statement (.nop x) := fun lay => by cases lay <;> exact ⟨rfl, rfl⟩
theorem setChannel (x : U16) : Statement (.setChannel x) := fun lay => by cases lay <;> exact ⟨rfl, rfl⟩
theorem setVoice (x : U16) : Statement (.setVoice x) := fun lay => by cases lay <;> exact ⟨rfl, rfl⟩
theorem play (x : U16) : Statement (.play x) := fun lay => by cases lay <;> exact ⟨rfl, rfl⟩
theorem wait (x : U16) : Statement (.wait x) := fun lay => by cases lay <;> exact ⟨rfl, rfl⟩
theorem unknown (opcode : Byte) (x : U16) : Statement (.unknown opcode x) := fun lay => by cases lay <;> exact ⟨rfl, rfl⟩

end Sys2Proof.Laws.RecordShape
end

