-- ==== Sys2Proof/Tests/Slice0.lean ====
section
/-! SUPPORT. Tests of one or two steps each, and a witness for every statement that has hypotheses. Expected values are those of
95_test_vectors.md (the vector is named) or worked out by hand from the rule named. -/

namespace Sys2Proof.Tests

open Sys2Proof Sys2Proof.Machine

/-! ### Helpers -/

/-- The answer is a next value that passes a check. -/
def after {α : Type} (o : Res α) (p : α → Bool) : Bool :=
  match o with
  | .next a => p a
  | .fault _ => false
  | .refused _ => false

/-- The answer is this refusal. -/
def stops {α : Type} (o : Res α) (r : Refusal) : Bool :=
  match o with
  | .next _ => false
  | .fault _ => false
  | .refused r' => decide (r' = r)

/-- The voice of W1: volume 1000, attack 10, decay 0, sustain 800 for 0 ms, release 20. -/
def w1Voice : Voice := ⟨0, 1000, 10, 0, 800, 0, 20, 0⟩

/-- The voice of S3, E12 and section 7. -/
def p1Voice : Voice := ⟨1, 1000, 10, 20, 600, 30, 40, 0⟩

/-- What the envelope reads of it (E12). -/
def p1 : EnvParams := ⟨1000, 10, 20, 600, 30, 40⟩

/-- The image of W1, byte by byte (95_test_vectors.md 1.2). -/
def w1Image : List Byte :=
  [0x42, 0x45, 0x41, 0x4D, 0x01, 0x01, 0x00, 0xE8, 0x03, 0x0A, 0x00, 0x00, 0x00, 0x20, 0x03, 0x00, 0x00, 0x14, 0x00, 0x00,
    0x00, 0x01, 0x00, 0x03, 0x3C, 0x00]

/-- L7: the smallest valid image. -/
def emptyImage : List Byte := [0x42, 0x45, 0x41, 0x4D, 0x01, 0x00, 0x00, 0x00]

/-- S2: no voices, `PLAY 60`, `SET_VOICE 0`. -/
def s2Image : List Byte :=
  [0x42, 0x45, 0x41, 0x4D, 0x01, 0x00, 0x02, 0x00, 0x03, 0x3C, 0x00, 0x02, 0x00, 0x00]

/-- The Running instance of an image, with the operations to come. -/
def running (img : List Byte) (ops : List HostOp) : State :=
  { State.reset.withProgram img with running := true, inbox := ops }

/-- The start state of C1 to C12: two voices, `pc = 3` of 5, `et = 100`. -/
def c0 : State := { State.reset with loaded := true, running := true, voiceCount := 2, commandCount := 5, pc := 3, now := 100 }

/-- A sounding note of W1's program, created at 0. -/
def note60 : Note := ⟨0, 60, 0, none, 0, .attack, 0⟩

/-- W1 after `start` and `update(0)`: end of song, one note. -/
def w1Played (ops : List HostOp) : State := { running w1Image ops with running := false, notes := [(0, note60)] }

/-! ### Words and terms -/

theorem test_wf_refuses_named_opcode_as_unknown : (Instr.unknown 4 0).wf = false := by decide
theorem test_wf_accepts_first_reserved_opcode : (Instr.unknown 5 0).wf = true := by decide
/-- K2: `00 AD DE`, bit by bit from R60 and R63. -/
theorem test_decode_nop : decode .packed [0b00000000, 0b10101101, 0b11011110] = .ok (.nop 0xDEAD, []) := by decide
/-- K3. -/
theorem test_decode_setChannel : decode .packed [0b00000001, 0b11111111, 0b11111111] = .ok (.setChannel 65535, []) := by decide
/-- K5: the operand is little-endian. -/
theorem test_decode_setVoice : decode .packed [0b00000010, 0b00000000, 0b00000001] = .ok (.setVoice 256, []) := by decide
/-- K6, and its `ALIGNED` form (R60). -/
theorem test_decode_play : decode .packed [0b00000011, 0b00111100, 0b00000000] = .ok (.play 60, []) ∧
    decode .aligned [0b00000011, 0b10101010, 0b00111100, 0b00000000] = .ok (.play 60, []) := by decide
/-- K7. -/
theorem test_decode_wait : decode .packed [0b00000100, 0b11110100, 0b00000001] = .ok (.wait 500, []) := by decide
/-- K8, K9: the first and the last reserved opcode. -/
theorem test_decode_unknown : decode .packed [0b00000101, 0b00000000, 0b00000000] = .ok (.unknown 5 0, []) ∧
    decode .packed [0b11111111, 0b00110100, 0b00010010] = .ok (.unknown 255 0x1234, []) := by decide
theorem test_decode_rejects_short_record : decode .packed [0x03, 0x3C] = .error .shortRecord ∧
    decode .aligned [0x03, 0x00, 0x3C] = .error .shortRecord := by decide
/-- R66's example: `PLAY 60` is `03 3C 00`. -/
theorem test_assemble_play : (parseLine "PLAY 60 ; middle C".toList).map
    (fun l => match l with | .command i => encode .packed i | .voice _ => [] | .blank => []) = some [0x03, 0x3C, 0x00] := by decide
/-- The listing of P5's `PLAY` on W1's voice, assembled, is W1's image. -/
theorem test_assemble_w1 : assemble .packed 1 [".voice 0,1000,10,0,800,0,20,0".toList, "PLAY 60".toList] = some w1Image := by decide

/-! ### The commands (C1 to C16) -/

/-- C2. -/
theorem test_nop : after (exec (.nop 0xFFFF) c0) (fun t => decide (t = { c0 with pc := 4 })) = true := by decide
/-- C3. -/
theorem test_setChannel : after (exec (.setChannel 2) c0) (fun t => decide (t = { c0 with pc := 4, curChannel := 2 })) = true := by
  decide
/-- C4. -/
theorem test_setVoice : after (exec (.setVoice 1) c0) (fun t => decide (t = { c0 with pc := 4, curVoice := 1 })) = true := by decide
/-- C6: no reduction modulo 256. -/
theorem test_setVoice_out_of_range : after (exec (.setVoice 256) c0)
    (fun t => decide (t = { c0 with pc := 4, log := [⟨3, .invalidVoiceIndex⟩] })) = true := by decide
/-- C9: retrigger. -/
theorem test_play_retriggers : after (exec (.play 61) { c0 with notes := [(0, { note60 with start := 90 })] })
    (fun t => decide (t = { c0 with pc := 4, notes := [(0, ⟨0, 61, 100, none, 0, .attack, 0⟩)] })) = true := by decide
/-- C15: the voice is checked first. -/
theorem test_play_without_voice_or_channel :
    after (exec (.play 60) { c0 with voiceCount := 0, curChannel := 4, params := { c0.params with nChannels := 4 } })
      (fun t => decide (t.notes = [] ∧ t.pc = 4 ∧ t.log = [⟨3, .invalidVoiceIndex⟩])) = true := by decide
/-- C10. -/
theorem test_wait : after (exec (.wait 500) c0) (fun t => decide (t = { c0 with pc := 4, due := 600 })) = true := by decide
/-- C16: the largest wait at the largest time does not overflow. -/
theorem test_wait_largest : after (exec (.wait 65535) { c0 with now := 4294901759 }) (fun t => decide (t.due = 4294967294)) = true := by
  decide
/-- C12. -/
theorem test_unknown : after (exec (.unknown 255 0x1234) c0)
    (fun t => decide (t = { c0 with pc := 4, log := [⟨3, .unknownOpcode⟩] })) = true := by decide

/-! ### The envelope -/

/-- `lerp` alone (section 6). -/
theorem test_lerp : lerp 0 1000 1 3 = 333 ∧ lerp 1000 600 1 7 = 943 ∧ lerp 0 1 1 2 = 0 ∧ lerp 1 0 1 2 = 1 ∧
    lerp 65535 0 65534 65535 = 1 := by decide
/-- E12 at the edges of every phase. -/
theorem test_envelope_e12 : [0, 5, 10, 11, 30, 31, 60, 61, 99, 100].map (envSounding p1) =
    [(.attack, 0), (.attack, 500), (.attack, 1000), (.decay, 980), (.decay, 600), (.sustain, 600), (.sustain, 600), (.release, 585),
      (.release, 15), (.done, 0)] := by decide
/-- E3: sustain above volume is clamped. -/
theorem test_envelope_e3 : [2, 3, 6, 7, 8].map (envSounding ⟨500, 2, 2, susAmp [] 800 500, 2, 2⟩) =
    [(.attack, 500), (.decay, 500), (.sustain, 500), (.release, 250), (.done, 0)] := by decide
/-- The parameter `sus_amp`: the default on W1's voice, and D13's other reading (1000 is full) given as a point. -/
theorem test_susAmp : susAmp [] 800 1000 = 800 ∧ susAmp [⟨800, 500, 400⟩] 800 500 = 400 ∧ susAmp [⟨800, 500, 400⟩] 800 1000 = 800 := by
  decide
/-- NO1: released at 400 with 40 ms. -/
theorem test_envelope_no1 : [0, 10, 20, 39, 40].map (envReleased 400 40) =
    [(.release, 400), (.release, 300), (.release, 200), (.release, 10), (.done, 0)] := by decide

/-! ### Host operations -/

/-- L3, L7, L10, L11: the codes of `load`. -/
theorem test_load_codes : loadCheck .packed [0x42, 0x45, 0x41, 0x4D] = .truncatedBuffer ∧ loadCheck .packed emptyImage = .ok ∧
    loadCheck .packed w1Image = .ok ∧ loadCheck .packed (w1Image.take 25) = .truncatedBuffer := by decide
/-- L8, and the `ALIGNED` reading of W1's image. -/
theorem test_load_rejects : loadCheck .packed [0x62, 0x65, 0x61, 0x6D, 0x01, 0x00, 0x00, 0x00] = .invalidMagic ∧
    loadCheck .aligned w1Image = .truncatedBuffer := by decide
/-- W1, first update: the note sounds at 0 and the song has ended. -/
theorem test_w1_update_0 : after (step (running w1Image [.update 0])) (fun t =>
    decide (t.events = [⟨0, 0, 60, 0, .attack⟩] ∧ t.condition = .stopped ∧ t.pc = 0 ∧ t.notes = [(0, note60)])) = true := by decide
/-- W1, `update(11)`. -/
theorem test_w1_update_11 : after (step (w1Played [.update 11])) (fun t =>
    decide (t.events = [⟨0, 0, 60, 760, .release⟩] ∧ t.now = 11)) = true := by decide
/-- W1, `update(30)`: DONE, reported once, slot freed. -/
theorem test_w1_update_30 : after (step (w1Played [.update 30])) (fun t =>
    decide (t.events = [⟨0, 0, 60, 0, .done⟩] ∧ t.notes = [])) = true := by decide
/-- S2: both commands are skipped and logged. -/
theorem test_s2 : after (step (running s2Image [.update 7])) (fun t =>
    decide (t.log = [⟨0, .invalidVoiceIndex⟩, ⟨1, .invalidVoiceIndex⟩] ∧ t.notes = [] ∧ t.condition = .stopped)) = true := by decide
/-- H1: `start` on an unloaded instance is rejected. -/
theorem test_h1_start : after (step { State.reset with inbox := [.start] }) (fun t =>
    decide (t = { State.reset with result := some (.bool false) })) = true := by decide
/-- PA3's pause: 60 ms of engine time at tick 1000. -/
theorem test_time_base_after_pause : after (State.timeBase { State.reset with now := 60, resync := true } 1000) (fun t =>
    decide (t.skew = 940 ∧ t.now = 60 ∧ t.resync = false)) = true := by decide
/-- R140: a tick below an earlier one is refused. -/
theorem test_tick_duty : stops (step { State.reset with lastTick := 9, inbox := [.update 8] }) .tickDuty = true := by decide
/-- The next step after `withFetchWord` runs the word (K7). -/
theorem test_withFetchWord : after (step (State.reset.withFetchWord 24 0x00FF01)) (fun t => decide (t.curChannel = 255)) = true := by
  decide

/-! ### Witnesses: for each statement with hypotheses, a concrete state and operands that meet them, at the edges of their ranges -/

/-- From a checked answer to the answer itself. -/
theorem after_next {α : Type} {o : Res α} {p : α → Bool} (h : after o p = true) : ∃ a, o = .next a ∧ p a = true := by
  cases o with
  | next a => exact ⟨a, rfl, h⟩
  | fault r => cases h
  | refused r => cases h

/-- From a checked stop to the stop itself. -/
theorem stops_refused {α : Type} {o : Res α} {r : Refusal} (h : stops o r = true) : o = .refused r := by
  cases o with
  | next a => cases h
  | fault r => cases h
  | refused r' => exact congrArg _ (of_decide_eq_true h)

/-- The image of P3, byte by byte. -/
def p3Image : List Byte :=
  [0x42, 0x45, 0x41, 0x4D, 0x01, 0x01, 0x01, 0xE8, 0x03, 0x0A, 0x00, 0x14, 0x00, 0x58, 0x02, 0x1E, 0x00, 0x28, 0x00, 0x00, 0x00,
    0x05, 0x00, 0x03, 0x3C, 0x00, 0x04, 0x14, 0x00, 0x03, 0x3E, 0x00, 0x04, 0xE8, 0x03, 0x03, 0x40, 0x00]

/-- P3 after `update(105)`: Running in the middle of a wait, one note at 500. -/
def p3 (ops : List HostOp) : State :=
  { State.reset.withProgram p3Image with
    running := true, pc := 2, due := 120, now := 105, lastTick := 105, inbox := ops
    notes := [(0, ⟨0, 60, 100, none, 0, .attack, 500⟩)] }

/-- P3 after `pause()`. -/
def p3Paused (ops : List HostOp) : State := { p3 ops with running := false, resync := true }

theorem slotLegal_p3 (c : Nat × Note) (h : c ∈ (p3 []).notes) : (p3 []).slotLegal c := by
  obtain rfl : c = (0, ⟨0, 60, 100, none, 0, .attack, 500⟩) := List.mem_singleton.1 h
  exact ⟨by decide, by decide, by decide, fun off (ho : off ∈ (none : Option U32)) => by simp at ho, by decide⟩

/-- The invariant is met in the middle of a run, with a sounding note, whatever is to come. -/
theorem p3_inv (ops : List HostOp) : (p3 ops).Inv where
  stepCap_pos := (by decide : 1 ≤ (p3 []).params.stepCap)
  nChannels_range := (by decide : 1 ≤ (p3 []).params.nChannels ∧ (p3 []).params.nChannels ≤ 65536)
  unloaded := fun h => by cases h
  image_contiguous := (by decide : (p3 []).image = Memory.ofBytes ((p3 []).image.map Prod.snd))
  image_long := fun _ =>
    (by decide : imageEnd (p3 []).params.layout (p3 []).voiceCount.toNat (p3 []).commandCount.toNat ≤ (p3 []).image.length)
  header := fun _ => ⟨(by decide : (p3 []).image.readBytes 0 6 = some (magic ++ [(p3 []).version, (p3 []).voiceCount])),
    (by decide : (p3 []).image.readBytes (countOffset (p3 []).params.layout (p3 []).voiceCount.toNat) 2 =
      some [loByte (p3 []).commandCount, hiByte (p3 []).commandCount])⟩
  pc_legal := .inl (by decide : (p3 []).pc.toNat < (p3 []).commandCount.toNat)
  voice_legal := .inr rfl
  due_at_start := fun h => absurd h (by decide : (p3 []).pc ≠ 0)
  due_bound := (by decide : (p3 []).due.toNat ≤ (p3 []).now.toNat + 65535)
  clock := (by decide : (p3 []).skew.toNat + (p3 []).now.toNat ≤ (p3 []).lastTick.toNat)
  tick_range := (by decide : (p3 []).lastTick.toNat < tickLimit)
  paused_resync := fun h => absurd h (by decide : (p3 []).paused ≠ true)
  notes_wf := rfl
  notes_legal := slotLegal_p3
  notes_current := (by decide : ∀ c ∈ (p3 []).notes, (p3 []).slotCurrent c = true)

/-- And while Paused. -/
theorem p3Paused_inv (ops : List HostOp) : (p3Paused ops).Inv :=
  let h := p3_inv ops
  ⟨h.stepCap_pos, h.nChannels_range, fun h => (by cases h), h.image_contiguous, h.image_long, h.header, h.pc_legal, h.voice_legal,
    h.due_at_start, h.due_bound, h.clock, h.tick_range, fun _ => rfl, h.notes_wf, h.notes_legal, h.notes_current⟩

theorem witness_DecodeInvertsEncode : (Instr.unknown 5 0x1234).wf = true ∧ (Instr.nop 0xFFFF).wf = true := by decide
theorem witness_EncodeInvertsDecode : decode .packed [0xFF, 0x34, 0x12, 0xAA] = .ok (.unknown 255 0x1234, [0xAA]) ∧
    decode .aligned [0x04, 0xEE, 0xF4, 0x01] = .ok (.wait 500, []) := by decide
theorem witness_OpcodeByteSelectsTheCommand : 5 ≤ (5 : Byte).toNat ∧ 5 ≤ (255 : Byte).toNat ∧ ¬ 5 ≤ (4 : Byte).toNat := by decide
theorem witness_EveryFullRecordDecodes : cmdBytes .packed ≤ [(3 : Byte), 60, 0].length ∧ [(3 : Byte), 60].length < cmdBytes .packed ∧
    [(3 : Byte), 0, 60].length < cmdBytes .aligned := by decide
theorem witness_MemReadIsLittleEndian : (Memory.ofBytes w1Image).read 7 = some 0xE8 ∧ (Memory.ofBytes w1Image).read 8 = some 0x03 := by
  decide
/-- The last offset, and the first offset, command and voice that do not exist. -/
theorem witness_OutOfRangeAccessIsRefused : (Memory.ofBytes w1Image).read 25 = some 0x00 ∧
    (Memory.ofBytes w1Image).read (25 + 1) = none ∧
    (running w1Image []).commandCount.toNat ≤ (1 : U16).toNat ∧ (running w1Image []).voiceCount.toNat ≤ (1 : Byte).toNat := by decide
theorem witness_LaidOutImageReadsBack : [w1Voice, p1Voice].length ≤ 255 ∧ [Instr.play 60, .wait 500].length ≤ 65535 ∧
    (∀ i ∈ [Instr.play 60, .wait 500], i.wf = true) ∧ State.reset.params.supportedVersion = none ∧
    State.reset.params.susAmp = [] ∧ [w1Voice, p1Voice][1]? = some p1Voice ∧ [Instr.play 60, .wait 500][1]? = some (.wait 500) := by decide
/-- L2 and L9: too short, and one wrong letter. -/
theorem witness_LoadRejectsBadMagic : ¬ magic <+: [0x42, 0x45, 0x41] ∧ ¬ magic <+: ([0x42, 0x45, 0x41, 0x4E] ++ w1Image.drop 4) := by
  decide
/-- L4, L14 and L11: each kind of truncation, one byte short. -/
theorem witness_LoadRejectsTruncatedBuffer :
    (magic <+: [0x42, 0x45, 0x41, 0x4D, 0x01] ∧ [(0x42 : Byte), 0x45, 0x41, 0x4D, 0x01].length < 6) ∧
    (magic <+: w1Image.take 22 ∧ (w1Image.take 22)[5]? = some 1 ∧ (w1Image.take 22).length < countOffset .packed 1 + 2) ∧
    (magic <+: w1Image.take 25 ∧ (w1Image.take 25)[5]? = some 1 ∧ (w1Image.take 25)[countOffset .packed 1]? = some 1 ∧
      (w1Image.take 25)[countOffset .packed 1 + 1]? = some 0 ∧
      (w1Image.take 25).length < countOffset .packed 1 + 2 + ((1 : Byte).toNat + 256 * (0 : Byte).toNat) * cmdBytes .packed) := by decide
/-- L10 and L12: exactly long enough, and longer. -/
theorem witness_LoadTakesTheProgram :
    (magic <+: w1Image ∧ w1Image[4]? = some 1 ∧ w1Image[5]? = some 1 ∧ w1Image[countOffset .packed 1]? = some 1 ∧
      w1Image[countOffset .packed 1 + 1]? = some 0 ∧
      countOffset .packed 1 + 2 + ((1 : Byte).toNat + 256 * (0 : Byte).toNat) * cmdBytes .packed = w1Image.length) ∧
    magic <+: (w1Image ++ [0xAA, 0xBB]) := by decide
theorem witness_ConstructIsResetThenLoad : (p3 [.construct 5 none]).inbox = .construct 5 none :: [] ∧
    (p3 [.construct 5 (some w1Image)]).inbox = .construct 5 (some w1Image) :: [] := by decide
/-- Stopped with a note, and Paused. -/
theorem witness_NotRunningDispatchesNothing :
    ((w1Played [.update 5]).running = false ∧ (w1Played [.update 5]).effective = true ∧
      ∃ t, step (w1Played [.update 5]) = .next t ∧ decide (t.events.length = 1) = true) ∧
    ((p3Paused [.update 300]).running = false ∧ (p3Paused [.update 300]).effective = false ∧
      ∃ t, step (p3Paused [.update 300]) = .next t ∧ decide (t.events = []) = true) :=
  ⟨⟨by decide, by decide, after_next (by decide)⟩, ⟨by decide, by decide, after_next (by decide)⟩⟩
/-- An effective update that reaches no command: Stopped with a note, and Running one millisecond before the gate opens. -/
theorem witness_NotRunningDispatchesNothing_pass :
    ((w1Played [.update 5]).tickAdmissible 5 = true ∧
      ∃ s1, State.timeBase { w1Played [.update 5] with inbox := [], lastTick := 5 } 5 = .next s1 ∧ decide (s1.now = 5) = true) ∧
    ((p3 [.update 119]).tickAdmissible 119 = true ∧ (p3 [.update 119]).effective = true ∧
      ∃ s1, State.timeBase { p3 [.update 119] with inbox := [], lastTick := 119 } 119 = .next s1 ∧
        decide (s1.pc ≠ s1.commandCount ∧ s1.now.toNat < s1.due.toNat) = true) :=
  ⟨⟨by decide, after_next (by decide)⟩, ⟨by decide, by decide, after_next (by decide)⟩⟩
/-- `pc = command_count`, and the last command. -/
theorem witness_EndOfSongStops : (running emptyImage []).pc = (running emptyImage []).commandCount ∧
    (running w1Image []).commandDue ∧ (running w1Image []).pc.toNat + 1 = (running w1Image []).commandCount.toNat ∧
    (∃ i, (running w1Image []).fetch 0 = .next i ∧ decide (i = .play 60) = true) ∧
    ∃ t, exec (.play 60) (running w1Image []) = .next t ∧ decide (t.pc = 1) = true :=
  ⟨by decide, ⟨by decide, by decide⟩, by decide, after_next (by decide), after_next (by decide)⟩
/-- One millisecond before the gate opens, and the instant it does. -/
theorem witness_TimeGateHoldsEveryCommand :
    ({ p3 [] with now := 119 }.pc ≠ { p3 [] with now := 119 }.commandCount ∧
      { p3 [] with now := 119 }.now.toNat < { p3 [] with now := 119 }.due.toNat) ∧
    { p3 [] with now := 120 }.commandDue ∧
    (∃ i, State.fetch { p3 [] with now := 120 } 2 = .next i ∧ decide (i = .play 62) = true) ∧
    ∃ t, exec (.play 62) { p3 [] with now := 120 } = .next t ∧ decide (t.pc = 3) = true :=
  ⟨by decide, ⟨by decide, by decide⟩, after_next (by decide), after_next (by decide)⟩
theorem witness_WorkCapBoundsTheLoop : (p3 []).running = true ∧ { p3 [] with now := 120 }.commandDue ∧
    (∃ i, State.fetch { p3 [] with now := 120 } 2 = .next i ∧ decide (i = .play 62) = true) ∧
    (running emptyImage []).pc = (running emptyImage []).commandCount :=
  ⟨by decide, ⟨by decide, by decide⟩, after_next (by decide), by decide⟩
/-- A pass that the cap ends, and one that reaches the end. -/
theorem witness_LoopAdvancesAtMostTheCap :
    (∃ t, pcdLoop 1 { p3 [] with now := 120 } = .next t ∧ decide (t.pc = 3 ∧ t.running = true) = true) ∧
    ∃ t, pcdLoop 1 (running w1Image []) = .next t ∧ decide (t.pc = 0 ∧ t.running = false) = true :=
  ⟨after_next (by decide), after_next (by decide)⟩
/-- P3's `update` at the instant the wait ends (the pause left out, so at tick 120). -/
theorem witness_StepRunsTheDecodedCommand : (p3 [.update 120]).tickAdmissible 120 = true ∧ (p3 [.update 120]).running = true ∧
    (p3 [.update 120]).params.stepCap = 15 + 1 ∧
    ∃ s1, State.timeBase { p3 [.update 120] with inbox := [], lastTick := 120 } 120 = .next s1 ∧
      decide (s1.pc.toNat < s1.commandCount.toNat ∧ s1.due.toNat ≤ s1.now.toNat ∧
        s1.image.readBytes (s1.commandOffset s1.pc.toNat) (cmdBytes s1.params.layout) = some [0x03, 0x3E, 0x00] ∧
        decode s1.params.layout [0x03, 0x3E, 0x00] = .ok (.play 62, [])) = true :=
  ⟨by decide, by decide, by decide, after_next (by decide)⟩
theorem witness_FetchWordRunsExactlyThatWord : (p3 []).Inv ∧ (p3Paused []).Inv := ⟨p3_inv [], p3Paused_inv []⟩
theorem witness_NopOnlyAdvances : c0.pc.toNat < c0.commandCount.toNat ∧
    { State.reset.withFetchWord 24 0xDEAD00 with inbox := [] }.commandDue ∧
    ∃ i, State.fetch { State.reset.withFetchWord 24 0xDEAD00 with inbox := [] } 0 = .next i ∧ decide (i = .nop 0xDEAD) = true :=
  ⟨by decide, ⟨by decide, by decide⟩, after_next (by decide)⟩
theorem witness_SetChannelSetsTheChannel : c0.pc.toNat < c0.commandCount.toNat := by decide
/-- The last voice that exists and the first that does not. -/
theorem witness_SetVoiceValidatesItsIndex : c0.pc.toNat < c0.commandCount.toNat ∧ (1 : U16).toNat < c0.voiceCount.toNat ∧
    c0.voiceCount.toNat ≤ (2 : U16).toNat ∧ c0.voiceCount.toNat ≤ (256 : U16).toNat := by decide
/-- With voices; with none; and, on 4 slots, the last channel with one and the first without. -/
theorem witness_PlayCreatesTheNote :
    (c0.pc.toNat < c0.commandCount.toNat ∧ c0.curVoice.toNat < c0.voiceCount.toNat ∧ (65535 : U16).toNat < c0.params.nChannels) ∧
    { c0 with voiceCount := 0 }.voiceCount.toNat ≤ { c0 with voiceCount := 0 }.curVoice.toNat ∧
    (3 : U16).toNat < { c0.params with nChannels := 4 }.nChannels ∧ { c0.params with nChannels := 4 }.nChannels ≤ (4 : U16).toNat := by
  decide
/-- The largest engine time; and a wait as the last command. -/
theorem witness_WaitSetsTheGate : ({ c0 with now := 4294901759 }.now.toNat < tickLimit) ∧
    { State.reset.withFetchWord 24 0x01F404 with inbox := [] }.commandDue ∧
    { State.reset.withFetchWord 24 0x01F404 with inbox := [] }.pc.toNat + 1 =
      { State.reset.withFetchWord 24 0x01F404 with inbox := [] }.commandCount.toNat ∧
    (∃ i, State.fetch { State.reset.withFetchWord 24 0x01F404 with inbox := [] } 0 = .next i ∧ decide (i = .wait 500) = true) ∧
    ∃ t, exec (.wait 500) { State.reset.withFetchWord 24 0x01F404 with inbox := [] } = .next t ∧ decide (t.due = 500) = true :=
  ⟨by decide, ⟨by decide, by decide⟩, by decide, after_next (by decide), after_next (by decide)⟩
/-- A wait of 500 and one of 0 with a command after them (commands 1 of 2). -/
theorem witness_WaitSetsTheGate_inside :
    (running (buildImage .packed 1 [] [.wait 500, .nop 0]) []).commandDue ∧
    (∃ i, (running (buildImage .packed 1 [] [.wait 500, .nop 0]) []).fetch 0 = .next i ∧ decide (i = .wait 500) = true) ∧
    (∃ i, (running (buildImage .packed 1 [] [.wait 0, .nop 0]) []).fetch 0 = .next i ∧ decide (i = .wait 0) = true) ∧
    (running (buildImage .packed 1 [] [.wait 0, .nop 0]) []).pc.toNat + 1 ≠
      (running (buildImage .packed 1 [] [.wait 0, .nop 0]) []).commandCount.toNat :=
  ⟨⟨by decide, by decide⟩, after_next (by decide), after_next (by decide), by decide⟩
theorem witness_UnknownOpcodeIsLoggedNop : c0.pc.toNat < c0.commandCount.toNat ∧ 5 ≤ (5 : Byte).toNat ∧
    { State.reset.withFetchWord 24 0x1234FF with inbox := [] }.commandDue ∧
    ∃ i, State.fetch { State.reset.withFetchWord 24 0x1234FF with inbox := [] } 0 = .next i ∧ decide (i = .unknown 255 0x1234) = true :=
  ⟨by decide, by decide, ⟨by decide, by decide⟩, after_next (by decide)⟩
theorem witness_CommandsTouchOnlyTheirOwn : ∃ t, exec (.play 61) (p3 []) = .next t ∧ decide (t.pc = 3) = true :=
  after_next (by decide)
theorem witness_EveryCommandCompletes : (p3 []).pc.toNat < (p3 []).commandCount.toNat ∧
    { p3 [] with now := 4294901759 }.now.toNat < tickLimit := by decide
theorem witness_LerpIsAnExactTruncatedLine : 0 < 65535 ∧ 65535 ≤ 65535 ∧ (0 : Nat) ≤ 65535 ∧ (1 : Nat) ≤ 65535 := by decide
/-- The first and last instant of each phase of E12, of a voice without attack (E5), and of DONE. -/
theorem witness_EnvelopeHasItsFivePhases : (note60.off = none ∧ note60.start.toNat ≤ (0 : U32).toNat) ∧ (10 ≤ p1.attack.toNat ∧ 0 < p1.attack.toNat) ∧
    (EnvParams.attack ⟨700, 0, 0, 300, 0, 0⟩).toNat = 0 ∧
    (p1.attack.toNat < 11 ∧ 30 ≤ p1.t2 ∧ p1.sustain.toNat ≤ p1.volume.toNat) ∧ (p1.t2 < 31 ∧ 60 ≤ p1.t3) ∧
    (p1.t3 < 61 ∧ 99 < p1.t4) ∧ (p1.t3 < 100 ∧ p1.t4 ≤ 100) := by decide
/-- NO1: at the note-off, one before the end of the release, and at its end. -/
theorem witness_EnvelopeAfterNoteOff :
    ({ note60 with off := some 4, relAmp := 400 }.off = some 4 ∧ (4 : U32).toNat ≤ (4 : U32).toNat) ∧
    ((4 : U32).toNat < (43 : U32).toNat ∧ (43 : U32).toNat - (4 : U32).toNat < p1.release.toNat) ∧
    ((4 : U32).toNat < (44 : U32).toNat ∧ p1.release.toNat ≤ (44 : U32).toNat - (4 : U32).toNat) := by decide
theorem witness_EnvelopeRisesThenFalls : 0 < p1.attack.toNat ∧ 10 ≤ p1.t1 ∧ p1.t3 < 61 ∧ p1.sustain.toNat ≤ p1.volume.toNat ∧
    p1.t1 ≤ 10 := by decide
theorem witness_EnvelopeIsShiftInvariant : (4294967284 : U32).toNat + (11 : U32).toNat < 2 ^ 32 ∧ note60.start.toNat ≤ (4 : U32).toNat ∧
    ∀ off ∈ { note60 with off := some 4 }.off, off.toNat ≤ (4 : U32).toNat :=
  ⟨by decide, by decide, fun off (h : off ∈ some (4 : U32)) => by cases h; decide⟩
/-- E8: the longest note. -/
theorem witness_SustainAlwaysEnds : EnvParams.t3 ⟨65535, 65535, 65535, 1, 65535, 65535⟩ < 196606 ∧
    EnvParams.t4 ⟨65535, 65535, 65535, 1, 65535, 65535⟩ ≤ 262140 := by decide
/-- NO3 and NO3b: `t3` and one before; and a note released before. -/
theorem witness_NoteOffIsAcceptedOnce : (∃ p, (p3 []).envParams 0 = .next p ∧ decide (p = p1) = true) ∧
    note60.off = none ∧ { note60 with off := some 4 }.off ≠ none ∧ p1.t3 ≤ (60 : U32).toNat - note60.start.toNat ∧
    (59 : U32).toNat - note60.start.toNat < p1.t3 := ⟨after_next (by decide), by decide, by decide, by decide, by decide⟩
/-- A note that lives on, and one that is over; and channel 65535 behind the largest offset. -/
theorem witness_EnvPassReportsAndRetires : NoteTable.wf (p3 []).notes = true ∧ (p3 []).Inv ∧
    (∀ slot ∈ { p3 [] with channelOffset := 65535, notes := [(65535, note60)] }.notes, slot.1 < 65536) ∧
    (∃ t, State.envPass { p3 [] with channelOffset := 65535, notes := [(65535, note60)] } = .next t ∧
      decide (t.events.map (fun e => e.chanOut.toNat) = [131070]) = true) ∧
    (∃ t, (p3 []).envPass = .next t ∧ decide (t.notes.length = 1) = true) ∧
    ∃ t, State.envPass { p3 [] with now := 200 } = .next t ∧ decide (t.notes = [] ∧ t.events.length = 1) = true :=
  ⟨by decide, p3_inv _, by decide, after_next (by decide), after_next (by decide), after_next (by decide)⟩
theorem witness_EventAmplitudeWithinVolume : (p3 [.update 110]).Inv ∧ (p3 [.update 110]).inbox ≠ [] ∧
    (∃ t, step (p3 [.update 110]) = .next t ∧ decide (⟨0, 0, 60, 1000, .attack⟩ ∈ t.events) = true) ∧
    ∃ p, (p3 [.update 110]).envParams 0 = .next p ∧ decide (p.volume = 1000) = true :=
  ⟨p3_inv _, by decide, after_next (by decide), after_next (by decide)⟩
/-- An equal tick, and the first update after a resumed pause. -/
theorem witness_NoEngineTimeNoChange :
    ((p3 [.update 105]).Inv ∧ (p3 [.update 105]).effective = true ∧ (p3 [.update 105]).now.toNat < (p3 [.update 105]).due.toNat ∧
      ∃ t, step (p3 [.update 105]) = .next t ∧ decide (t.now = (p3 []).now) = true) ∧
    State.effective { p3 [.update 500] with resync := true } = true ∧
    ∃ t, step { p3 [.update 500] with resync := true } = .next t ∧ decide (t.now = (p3 []).now ∧ t.skew = 395) = true :=
  ⟨⟨p3_inv _, by decide, by decide, after_next (by decide)⟩, by decide, after_next (by decide)⟩
theorem witness_StartRunsOrIsRejected : (p3Paused [.start]).inbox = .start :: [] ∧ (p3Paused [.start]).loaded = true ∧
    State.reset.loaded = false := by decide
/-- With `pc > 0`, with `pc = 0`, not running, and unloaded. -/
theorem witness_PauseFreezesTheRun : ((p3 [.pause]).loaded = true ∧ (p3 [.pause]).running = true ∧ 0 < (p3 [.pause]).pc.toNat) ∧
    ((running w1Image [.pause]).running = true ∧ (running w1Image [.pause]).pc = 0) ∧
    ((p3Paused [.pause]).loaded = true ∧ (p3Paused [.pause]).running = false) ∧ State.reset.loaded = false := by decide
theorem witness_StopReleasesEveryNote : (p3 [.stop]).Inv ∧ (p3 [.stop]).inbox = .stop :: [] ∧ (p3 [.stop]).loaded = true ∧
    (p3 [.stop]).notes.get 0 = some ⟨0, 60, 100, none, 0, .attack, 500⟩ ∧ State.reset.loaded = false :=
  ⟨p3_inv _, by decide, by decide, by decide, by decide⟩
theorem witness_QueriesChangeNothing : (p3 [.isRunning]).inbox = .isRunning :: [] ∧ (p3 [.isPaused]).inbox = .isPaused :: [] := by
  decide
theorem witness_PausedUpdateIsANoOp : (p3Paused [.update 105]).tickAdmissible 105 = true ∧
    (p3Paused [.update 105]).condition = .paused := by decide
theorem witness_TimeBaseAbsorbsThePause : (p3 []).skew.toNat + (p3 []).now.toNat ≤ (105 : U32).toNat ∧ (p3 []).resync = false ∧
    (p3Paused []).resync = true := by decide
/-- One below the last tick, and the first tick out of range. -/
theorem witness_BrokenTickDutyIsRefused : (104 : U32).toNat < (p3 [.update 104]).lastTick.toNat ∧
    2 ^ 32 - 2 ^ 16 ≤ (4294901760 : U32).toNat ∧ ¬ 2 ^ 32 - 2 ^ 16 ≤ (4294901759 : U32).toNat := by decide
theorem witness_RepliesFollowTheTable :
    (∃ t, step (p3 [.load w1Image]) = .next t ∧ decide (t.result = some (.code .ok)) = true) ∧
    (∃ t, step (p3 [.load [0x58]]) = .next t ∧ decide (t.result = some (.code .invalidMagic)) = true) ∧
    (∃ t, step (p3 [.start]) = .next t ∧ decide (t.result = some (.bool true)) = true) ∧
    (∃ t, step (p3 [.pause]) = .next t ∧ decide (t.result = some (.bool true)) = true) ∧
    (∃ t, step (p3 [.stop]) = .next t ∧ decide (t.result = some (.bool true)) = true) ∧
    ∃ t, step (p3 [.update 105]) = .next t ∧ decide (t.result = some (.bool true)) = true :=
  ⟨after_next (by decide), after_next (by decide), after_next (by decide), after_next (by decide), after_next (by decide),
    after_next (by decide)⟩
theorem witness_ConditionsFollowTheTable : (p3 []).loaded = true ∧ (p3 []).condition = .running ∧ 0 < (p3 []).pc.toNat ∧
    (running w1Image []).condition = .running ∧ (running w1Image []).pc = 0 ∧ (p3Paused []).condition = .paused ∧
    (w1Played []).condition = .stopped ∧ ∃ t, step (p3 [.pause]) = .next t ∧ decide (t.condition = .paused) = true :=
  ⟨by decide, by decide, by decide, by decide, by decide, by decide, by decide, after_next (by decide)⟩
theorem witness_StepKeepsTheInvariant : (p3 [.update 120]).Inv ∧
    ∃ t, step (p3 [.update 120]) = .next t ∧ decide (t.pc = 4 ∧ t.due = 1120) = true := ⟨p3_inv _, after_next (by decide)⟩
/-- The earliest admissible tick, and the largest. -/
theorem witness_DutifulHostIsNeverRefused : (p3 [.update 105]).Inv ∧ (p3 [.update 105]).hostDuty ∧ (p3 [.update 4294901759]).hostDuty := by
  refine ⟨p3_inv _, ⟨rfl, fun tick rest h => ?_⟩, ⟨rfl, fun tick rest h => ?_⟩⟩
  · obtain ⟨h, -⟩ := List.cons.inj h; cases h; decide
  · obtain ⟨h, -⟩ := List.cons.inj h; cases h; decide
/-- Both refusals a host can cause. -/
theorem witness_OnlyTheHostCausesARefusal : (p3 [.update 104]).Inv ∧ step (p3 [.update 104]) = .refused .tickDuty ∧
    step { p3 [.load w1Image] with params := { Params.default with supportedVersion := some 2 } } = .refused .unsupportedVersion :=
  ⟨p3_inv _, stops_refused (by decide), stops_refused (by decide)⟩
theorem witness_TimeNeverRunsBackwards : (p3 [.update 105]).Inv ∧ (HostOp.update 105).keepsProgram = true ∧
    ∃ t, step (p3 [.update 105]) = .next t ∧ decide (t.now = 105) = true := ⟨p3_inv _, by decide, after_next (by decide)⟩
theorem witness_ProgramIsImmutable : HostOp.stop.keepsProgram = true ∧
    (∃ t, step (p3 [.stop]) = .next t ∧ decide (t.pc = 0) = true) ∧
    ∃ t, step (p3 [.construct 7 none]) = .next t ∧ decide (t.channelOffset = 7) = true :=
  ⟨by decide, after_next (by decide), after_next (by decide)⟩
theorem witness_OutputsAreNeverReadBack : (p3 [.update 105]).inbox = .update 105 :: [] := by decide
/-- An image that differs in a byte no rule reads after `load` (`pulse_width`'s) agrees on every byte that is read. -/
theorem witness_UnreadBytesChangeNothing : (HostOp.update 105).keepsProgram = true ∧
    (∀ a, (p3 []).readsOffset a → ((p3 []).image.put 19 0xFF).read a = (p3 []).image.read a) ∧
    (p3 []).image.put 19 0xFF ≠ (p3 []).image := by
  refine ⟨by decide, fun a h => lookupKey_insertKey_other ?_ _ _, by decide⟩
  rintro rfl
  rcases h with ⟨i, hi, f, hf, h⟩ | ⟨i, hi, h⟩
  · have hi' : i < 1 := hi
    obtain rfl : i = 0 := by omega
    revert h; revert f; decide
  · have h' : 19 = 23 + 3 * i ∨ 19 = 23 + 3 * i + 1 ∨ 19 = 23 + 3 * i + 1 + 1 := h
    omega
theorem witness_InstancesAreIndependent : ∃ sys', System.stepAt [p3 [.update 105], w1Played []] ⟨0, by decide⟩ = .next sys' ∧
    decide (sys'.length = 2) = true := after_next (by decide)
/-- P3 from the middle of its wait: three commands are left, five updates come. -/
theorem witness_EveryRunFallsSilent :
    (p3 ([300000, 600000, 900000, 1200000, 1500000].map HostOp.update)).Inv ∧ (p3 []).paused = false ∧ (p3 []).resync = false ∧
    ticksSpaced 262140 (p3 []).lastTick.toNat [300000, 600000, 900000, 1200000, 1500000] ∧
    (p3 []).commandCount.toNat - (p3 []).pc.toNat + 2 ≤ [(300000 : U32), 600000, 900000, 1200000, 1500000].length := by
  refine ⟨p3_inv _, by decide, by decide, ?_, by decide⟩
  refine ⟨by decide, by decide, ?_⟩
  refine ⟨by decide, by decide, ?_⟩
  refine ⟨by decide, by decide, ?_⟩
  refine ⟨by decide, by decide, ?_⟩
  exact ⟨by decide, by decide, trivial⟩
/-- A `sus_amp` other than the default: the voice holds its volume. -/
theorem witness_SustainAmplitudeIsAParameter : ∀ level volume : U16, ((fun _ v => v : U16 → U16 → U16) level volume).toNat ≤ volume.toNat :=
  fun _ volume => Nat.le_refl volume.toNat

end Sys2Proof.Tests
end

section
/-! The parameter `sus_amp` (R7, R102): its points can be any function within the volume. -/

namespace Sys2Proof.Machine

/-- The points of a function of `sustain_level` and `volume`, one for each pair of arguments. -/
def susPoints (f : U16 → U16 → U16) : List SusPoint :=
  (List.range (2 ^ 16)).flatMap fun l => (List.range (2 ^ 16)).map fun v =>
    ⟨BitVec.ofNat 16 l, BitVec.ofNat 16 v, f (BitVec.ofNat 16 l) (BitVec.ofNat 16 v)⟩

theorem mem_susPoints_iff {f : U16 → U16 → U16} {e : SusPoint} : e ∈ susPoints f ↔ e.amp = f e.level e.volume := by
  obtain ⟨level, volume, amp⟩ := e
  simp only [susPoints, List.mem_flatMap, List.mem_map, List.mem_range, SusPoint.mk.injEq]
  constructor
  · rintro ⟨l, _, v, _, rfl, rfl, rfl⟩; rfl
  · rintro rfl
    exact ⟨level.toNat, level.isLt, volume.toNat, volume.isLt, by simp⟩

/-- Where every point of a table lies on `f`, the table gives `f` at each pair that has a point. -/
theorem susLevel_of_points {f : U16 → U16 → U16} {table : List SusPoint} {level volume : U16}
    (hf : ∀ e ∈ table, e.amp = f e.level e.volume) (hm : ∃ e ∈ table, e.level = level ∧ e.volume = volume) :
    susLevel table level volume = f level volume := by
  induction table with
  | nil => simp at hm
  | cons e table ih =>
    rw [List.forall_mem_cons] at hf
    by_cases h : e.level = level ∧ e.volume = volume
    · obtain ⟨rfl, rfl⟩ := h
      rw [susLevel_cons_same, hf.1]
    · rw [susLevel_cons_other h]
      exact ih hf.2 (by simpa [h] using hm)

theorem susLevel_susPoints (f : U16 → U16 → U16) (level volume : U16) :
    susLevel (susPoints f) level volume = f level volume :=
  susLevel_of_points (fun _ he => mem_susPoints_iff.1 he) ⟨⟨level, volume, f level volume⟩, mem_susPoints_iff.2 rfl, rfl, rfl⟩

/-- A value within the volume is not cut. -/
theorem susAmp_eq_susLevel {table : List SusPoint} {level volume : U16}
    (h : (susLevel table level volume).toNat ≤ volume.toNat) : susAmp table level volume = susLevel table level volume :=
  if_pos h

/-- Settles O60: the default and the bound are the laws of `susAmp`, and any function within the volume is its own table of
points. -/
theorem sustainAmplitudeIsAParameter : Obligations.SustainAmplitudeIsAParameter := by
  refine ⟨susAmp_default, susAmp_le, fun f hf => ⟨susPoints f, fun level volume => ?_⟩⟩
  have hsus := susLevel_susPoints f level volume
  rw [susAmp_eq_susLevel (hsus ▸ hf level volume), hsus]

end Sys2Proof.Machine
end

section
/-! What an operation leaves of the note table, how high an envelope can be, and what a command and a load can do. -/

namespace Sys2Proof.Machine

/-! ### Lists of slots -/

/-- The canonical form in terms of the keys alone. -/
theorem keysRise_iff_pairwise {α : Type} {l : List (Nat × α)} :
    keysRise l = true ↔ (l.map Prod.fst).Pairwise (· < ·) := by
  induction l with
  | nil => simp [keysRise]
  | cons c l ih => simp [keysRise, ih]

/-- An entry on the right of two matched lists has its partner on the left. -/
theorem exists_mem_of_forall₂ {α β : Type} {R : α → β → Prop} {l : List α} {l' : List β} (h : List.Forall₂ R l l')
    {b : β} (hb : b ∈ l') : ∃ a ∈ l, R a b := by
  induction h with
  | nil => simp at hb
  | cons hab _ ih =>
    rcases List.mem_cons.1 hb with rfl | hb
    · exact ⟨_, List.mem_cons_self, hab⟩
    · obtain ⟨a, ha, hr⟩ := ih hb
      exact ⟨a, List.mem_cons_of_mem _ ha, hr⟩

variable {s t : State}

/-- Every slot after the note-off of all slots is the note-off of the slot before, on the same channel (R135). -/
theorem State.mem_of_noteOffAll {l l' : NoteTable} (h : s.noteOffAll l = .next l') {slot : Nat × Note} (hs : slot ∈ l') :
    ∃ r, (slot.1, r) ∈ l ∧ s.noteOff r = .next slot.2 := by
  obtain ⟨⟨c, r⟩, hm, hc, hr⟩ := exists_mem_of_forall₂ (State.noteOffAll_eq_next.1 h) hs
  exact ⟨r, hc ▸ hm, hr⟩

theorem State.noteOffAll_wf {l l' : NoteTable} (h : s.noteOffAll l = .next l') (hl : NoteTable.wf l = true) :
    NoteTable.wf l' = true := by
  have hkeys : l.map Prod.fst = l'.map Prod.fst := by
    rw [← List.forall₂_eq_eq_eq, List.forall₂_map_left_iff, List.forall₂_map_right_iff]
    exact (State.noteOffAll_eq_next.1 h).imp fun _ _ hc => hc.1.symm
  exact keysRise_iff_pairwise.2 (hkeys ▸ keysRise_iff_pairwise.1 hl)

/-- Every slot after an ENV pass is a slot before it, evaluated, and not over (R118, R119). -/
theorem State.mem_of_envNotes {et : U32} {l : NoteTable} {out : List Event × NoteTable} (h : s.envNotes et l = .next out)
    {slot : Nat × Note} (hs : slot ∈ out.2) :
    ∃ r pa, (slot.1, r) ∈ l ∧ s.noteEnv r et = .next pa ∧ pa.1 ≠ .done ∧
      slot.2 = { r with phase := pa.1, amp := BitVec.ofNat 16 pa.2 } := by
  induction l generalizing out with
  | nil =>
    obtain rfl : ([], []) = out := by simpa [State.envNotes] using h
    simp at hs
  | cons c l ih =>
    obtain ⟨k, r⟩ := c
    simp only [State.envNotes, andThen_eq_next, Host.Outcome.next.injEq] at h
    obtain ⟨pa, hpa, out', hout, rfl⟩ := h
    rcases List.mem_append.1 hs with hs | hs
    · obtain ⟨hne, rfl⟩ := mem_keepNote hs
      exact ⟨r, pa, List.mem_cons_self, hpa, hne, rfl⟩
    · obtain ⟨r', pa', hm, hrest⟩ := ih hout hs
      exact ⟨r', pa', List.mem_cons_of_mem _ hm, hrest⟩

/-- An ENV pass removes slots and adds none (R118). -/
theorem State.envNotes_keys_sublist {et : U32} {l : NoteTable} {out : List Event × NoteTable}
    (h : s.envNotes et l = .next out) : (out.2.map Prod.fst).Sublist (l.map Prod.fst) := by
  induction l generalizing out with
  | nil =>
    obtain rfl : ([], []) = out := by simpa [State.envNotes] using h
    simp
  | cons c l ih =>
    obtain ⟨k, r⟩ := c
    simp only [State.envNotes, andThen_eq_next, Host.Outcome.next.injEq] at h
    obtain ⟨pa, -, out', hout, rfl⟩ := h
    by_cases hd : pa.1 = .done
    · simpa [keepNote, hd] using (ih hout).cons k
    · simpa [keepNote, hd] using ih hout

theorem State.envNotes_wf {et : U32} {l : NoteTable} {out : List Event × NoteTable} (h : s.envNotes et l = .next out)
    (hl : NoteTable.wf l = true) : NoteTable.wf out.2 = true :=
  keysRise_iff_pairwise.2 ((keysRise_iff_pairwise.1 hl).sublist (State.envNotes_keys_sublist h))

/-! ### How high an envelope can be (R112, R122 (e)) -/

theorem lerp_le_start {a b : Nat} (h : b ≤ a) (x len : Nat) : lerp a b x len ≤ a := by
  unfold lerp
  split
  · obtain rfl : a = b := by omega
    simp
  · exact Nat.sub_le _ _

theorem lerp_le_end {a b x len : Nat} (h : a ≤ b) (hx : x ≤ len) : lerp a b x len ≤ b := by
  have hdiv : (b - a) * x / len ≤ b - a := Nat.div_le_of_le_mul (by rw [Nat.mul_comm len]; exact Nat.mul_le_mul_left _ hx)
  simp only [lerp, h, if_true]
  omega

theorem attackAmp_le {p : EnvParams} {e : Nat} (h : e ≤ p.t1) : attackAmp p e ≤ p.volume.toNat := by
  unfold attackAmp
  split
  · exact Nat.le_refl _
  · exact lerp_le_end (Nat.zero_le _) h

theorem envSounding_le_volume {p : EnvParams} (hS : p.sustain.toNat ≤ p.volume.toNat) (e : Nat) :
    (envSounding p e).2 ≤ p.volume.toNat := by
  rcases p.elapsed_cases e with h | ⟨h, h'⟩ | ⟨h, h'⟩ | ⟨h, h'⟩ | ⟨h, h'⟩
  · rw [envSounding_attack h]; exact attackAmp_le h
  · rw [envSounding_decay h h']; exact lerp_le_start hS _ _
  · rw [envSounding_sustain h h']; exact hS
  · rw [envSounding_release h h']; exact (lerp_le_start (Nat.zero_le _) _ _).trans hS
  · rw [envSounding_done h h']; exact Nat.zero_le _

theorem envReleased_le_level (l r z : Nat) : (envReleased l r z).2 ≤ l := by
  unfold envReleased
  split
  · exact Nat.le_refl _
  · split
    · exact lerp_le_start (Nat.zero_le _) _ _
    · exact Nat.zero_le _

/-- The envelope of a note stays within its voice's volume when its release level does. -/
theorem env_le_volume {p : EnvParams} {r : Note} {et : U32} {pa : Phase × Nat} (hS : p.sustain.toNat ≤ p.volume.toNat)
    (hl : r.relAmp.toNat ≤ p.volume.toNat) (h : env p r et = .next pa) : pa.2 ≤ p.volume.toNat := by
  cases hoff : r.off with
  | none =>
    obtain ⟨-, rfl⟩ := (env_of_sounding hoff).1 h
    exact envSounding_le_volume hS _
  | some off =>
    obtain ⟨-, rfl⟩ := (env_of_released hoff).1 h
    exact (envReleased_le_level _ _ _).trans hl

/-- An amplitude within a volume fits the 16 bits it is stored in. -/
theorem toNat_ofNat_of_le {n : Nat} {v : U16} (h : n ≤ v.toNat) : (BitVec.ofNat 16 n).toNat = n := by
  rw [BitVec.toNat_ofNat]
  exact Nat.mod_eq_of_lt (Nat.lt_of_le_of_lt h v.isLt)

/-! ### Current slots -/

/-- A slot is current exactly when its voice can be read and its envelope there answers the stored amplitude. -/
theorem State.slotCurrent_iff {slot : Nat × Note} :
    s.slotCurrent slot = true ↔ ∃ p pa, s.envParams slot.2.voice = .next p ∧ slot.2.relAmp.toNat ≤ p.volume.toNat ∧
      env p slot.2 s.now = .next pa ∧ pa.1 ≠ .done ∧ pa.2 = slot.2.amp.toNat := by
  unfold State.slotCurrent
  rcases res_cases (s.envParams slot.2.voice) with ⟨p, hp⟩ | ⟨_, hp⟩
  · rcases res_cases (env p slot.2 s.now) with ⟨pa, hpa⟩ | ⟨_, hpa⟩ <;> simp [hp, hpa, -Prod.exists]
  · simp [hp]

/-- A note-off keeps a slot legal (R28, R113). -/
theorem State.noteOff_legal {c : Nat} {r r' : Note} (h : s.noteOff r = .next r') (hl : s.slotLegal (c, r)) :
    s.slotLegal (c, r') := by
  rcases State.noteOff_eq_next h with ⟨-, rfl⟩ | ⟨-, p, pa, -, -, ⟨-, rfl⟩ | ⟨-, rfl⟩⟩
  · exact hl
  · exact hl
  · obtain ⟨hc, hv, hst, -, hd⟩ := hl
    refine ⟨hc, hv, hst, fun off hoff => ?_, hd⟩
    obtain rfl : s.now = off := by simpa using hoff
    exact ⟨hst, Nat.le_refl _⟩

/-- A note-off changes no amplitude at its own engine time: the release begins at the level reached (R113, R114). -/
theorem State.noteOff_current {c : Nat} {r r' : Note} (h : s.noteOff r = .next r') (hl : s.slotCurrent (c, r) = true) :
    s.slotCurrent (c, r') = true := by
  rcases State.noteOff_eq_next h with ⟨-, rfl⟩ | ⟨-, p, pa, hp, hpa, ⟨-, rfl⟩ | ⟨-, rfl⟩⟩
  · exact hl
  · exact hl
  · obtain ⟨p', pa', hp', hrel, hpa', -, hamp⟩ := State.slotCurrent_iff.1 hl
    obtain rfl : p = p' := by simpa [hp] using hp'
    obtain rfl : pa = pa' := by simpa [hpa] using hpa'
    have hle : pa.2 ≤ p.volume.toNat := env_le_volume (State.envParams_sustain_le hp) hrel hpa
    have hlev := toNat_ofNat_of_le hle
    refine State.slotCurrent_iff.2 ⟨p, (.release, pa.2), hp, hlev.trans_le hle, ?_, by simp, hamp⟩
    exact (env_of_released rfl).2 ⟨Nat.le_refl _, by simp [hlev]⟩

/-! ### What a command can do -/

/-- What a command does before `pc` advances, one constructor per way one can go (R82 to R87). -/
inductive State.CommandEffect (s : State) : State → Prop
  | unchanged : CommandEffect s s
  | channel (x : U16) : CommandEffect s (s.setCurChannel x)
  | voice (x : U16) (hx : x.toNat < s.voiceCount.toNat) : CommandEffect s (s.setCurVoice (loByte x))
  | logged (e : ErrorCode) : CommandEffect s (s.raise e)
  | note (x : U16) (hv : s.curVoice.toNat < s.voiceCount.toNat) (hc : s.curChannel.toNat < s.params.nChannels) :
    CommandEffect s (s.setNotes (s.notes.set s.curChannel.toNat (s.newNote x)))
  | wait (x : U16) (hx : s.now.toNat + x.toNat < 4294967296) : CommandEffect s (s.setDue (s.now + x.setWidth 32))

/-- Every command is one of these effects, then the advance (R88). -/
theorem exec_effect {i : Instr} (h : exec i s = .next t) : ∃ u, s.CommandEffect u ∧ u.advance = .next t := by
  cases i with
  | nop x => exact ⟨s, .unchanged, h⟩
  | setChannel x => exact ⟨_, .channel x, h⟩
  | setVoice x =>
    simp only [exec, execSetVoice, State.voiceInRange, decide_eq_true_eq] at h
    split at h
    · rename_i hx; exact ⟨_, .voice x hx, h⟩
    · exact ⟨_, .logged _, h⟩
  | play x =>
    simp only [exec, execPlay] at h
    split at h
    · exact ⟨_, .logged _, h⟩
    · rename_i hv
      split at h
      · exact ⟨_, .logged _, h⟩
      · rename_i hc; exact ⟨_, .note x (Nat.not_le.1 hv) (Nat.not_le.1 hc), h⟩
  | wait x =>
    simp only [exec, execWait] at h
    split at h
    · rename_i hx; exact ⟨_, .wait x hx, h⟩
    · simp at h
  | unknown opcode x => exact ⟨_, .logged _, h⟩

/-- No effect moves `pc`; only the advance does (R88). -/
theorem State.CommandEffect.pc_eq (h : s.CommandEffect t) : t.pc = s.pc := by
  cases h <;> rfl

/-- No command stops or starts the run (R77). -/
theorem State.CommandEffect.running_eq (h : s.CommandEffect t) : t.running = s.running := by
  cases h <;> rfl

theorem pc_succ_ne_zero {pc : U16} (h : pc.toNat + 1 < 65536) : pc + 1 ≠ 0 := by
  intro h0
  have hsucc := pc_succ_toNat h
  rw [h0] at hsucc
  exact Nat.succ_ne_zero _ hsucc.symm

/-- All a command can do (R88): its effect, then the next index. -/
theorem exec_eq_next {i : Instr} (h : exec i s = .next t) :
    s.pc.toNat + 1 < 65536 ∧ ∃ u, s.CommandEffect u ∧ t = u.setPc (s.pc + 1) := by
  obtain ⟨u, hu, hadv⟩ := exec_effect h
  obtain ⟨hlt, rfl⟩ := State.advance_eq_next.1 hadv
  rw [hu.pc_eq] at hlt ⊢
  exact ⟨hlt, u, hu, rfl⟩

/-! ### What a load can do -/

/-- A buffer passes the checks of R44 exactly when it begins with the magic and holds both tables. -/
theorem loadCheck_eq_ok {lay : Layout} {buf : List Byte} :
    loadCheck lay buf = .ok ↔ buf.take 4 = magic ∧ imageEnd lay (bufferVoices buf) (bufferCommands lay buf) ≤ buf.length := by
  have hend : headerBytes ≤ commandBase lay (bufferVoices buf) ∧
      commandBase lay (bufferVoices buf) ≤ imageEnd lay (bufferVoices buf) (bufferCommands lay buf) := by
    unfold imageEnd commandBase countOffset; omega
  unfold loadCheck
  constructor
  · intro h
    split_ifs at h with hmagic
    simp only [not_or, not_not] at hmagic
    exact ⟨hmagic.2, by omega⟩
  · rintro ⟨hmagic, hlen⟩
    have hsix : headerBytes = 6 := rfl
    rw [if_neg (by simp [hmagic]; omega), if_neg (by omega), if_neg (by omega), if_neg (by omega)]

/-- All a load can answer (R132): the new program, or an error code and nothing else. -/
theorem State.load_eq_next {buf : List Byte} (h : s.load buf = .next t) :
    (loadCheck s.params.layout buf = .ok ∧ t = (s.withProgram buf).reply (some (.code .ok))) ∨
    (loadCheck s.params.layout buf ≠ .ok ∧ t = s.reply (some (.code (loadCheck s.params.layout buf)))) := by
  unfold State.load at h
  split at h
  · rename_i hok
    split at h
    · simp at h
    · exact .inl ⟨hok, by simpa using h.symm⟩
  · rename_i hne
    exact .inr ⟨hne, by simpa using h.symm⟩

theorem bufferVoices_lt (buf : List Byte) : bufferVoices buf < 256 := BitVec.isLt _

theorem bufferCommands_lt (lay : Layout) (buf : List Byte) : bufferCommands lay buf < 65536 := by
  have hbyte : ∀ a, bufferByte buf a < 256 := fun a => BitVec.isLt _
  have hlo := hbyte (countOffset lay (bufferVoices buf))
  have hhi := hbyte (countOffset lay (bufferVoices buf) + 1)
  unfold bufferCommands
  omega

theorem toNat_bufferVoices (buf : List Byte) : (BitVec.ofNat 8 (bufferVoices buf)).toNat = bufferVoices buf :=
  (BitVec.toNat_ofNat _ _).trans (Nat.mod_eq_of_lt (bufferVoices_lt buf))

theorem toNat_bufferCommands (lay : Layout) (buf : List Byte) :
    (BitVec.ofNat 16 (bufferCommands lay buf)).toNat = bufferCommands lay buf :=
  (BitVec.toNat_ofNat _ _).trans (Nat.mod_eq_of_lt (bufferCommands_lt lay buf))

theorem ofNat_bufferVoices (buf : List Byte) : BitVec.ofNat 8 (bufferVoices buf) = buf.getD 5 0 :=
  BitVec.eq_of_toNat_eq (toNat_bufferVoices buf)

/-- The count of R44 is the little-endian value of its two bytes (R47). -/
theorem ofNat_bufferCommands (lay : Layout) (buf : List Byte) :
    BitVec.ofNat 16 (bufferCommands lay buf) =
      le16 (buf.getD (countOffset lay (bufferVoices buf)) 0) (buf.getD (countOffset lay (bufferVoices buf) + 1) 0) :=
  BitVec.eq_of_toNat_eq (by rw [toNat_bufferCommands, toNat_le16]; rfl)

/-- A byte inside a buffer is a byte of its image. -/
theorem Memory.read_ofBytes_of_lt {buf : List Byte} {a : Nat} (h : a < buf.length) :
    (Memory.ofBytes buf).read a = some (buf.getD a 0) := by
  simp [h]

theorem Memory.readBytes_ofBytes_two {buf : List Byte} {a : Nat} (h : a + 1 < buf.length) :
    (Memory.ofBytes buf).readBytes a 2 = some [buf.getD a 0, buf.getD (a + 1) 0] := by
  simp only [Memory.readBytes, Memory.read_ofBytes_of_lt h, Memory.read_ofBytes_of_lt (Nat.lt_of_succ_lt h)]

/-- The image of an accepted buffer begins with the magic, the version and the number of voices (R41). -/
theorem Memory.readBytes_ofBytes_header {buf : List Byte} (hmagic : buf.take 4 = magic) (hlen : 6 ≤ buf.length) :
    (Memory.ofBytes buf).readBytes 0 6 = some (magic ++ [buf.getD 4 0, buf.getD 5 0]) := by
  refine Memory.readBytes_eq_some.2 ⟨rfl, fun k hk => ?_⟩
  rw [Nat.zero_add, Memory.read_ofBytes, ← hmagic]
  have h4 : (buf.take 4).length = 4 := by simp; omega
  rcases Nat.lt_or_ge k 4 with h | h
  · rw [List.getElem?_append_left (by omega), List.getElem?_take_of_lt h]
  · rw [List.getElem?_append_right (by omega), h4]
    obtain rfl | rfl : k = 4 ∨ k = 5 := by omega
    · simp [show 4 < buf.length by omega]
    · simp [show 5 < buf.length by omega]

/-! ### What `start`, `pause` and `stop` can do -/

/-- All a start can answer (R133). -/
theorem State.start_eq_next (h : s.start = .next t) :
    (s.loaded = true ∧ t = State.reply { s with running := true } (some (.bool true))) ∨
    (s.loaded = false ∧ t = s.reply (some (.bool false))) := by
  unfold State.start at h
  split at h
  · rename_i hl; exact .inl ⟨hl, (Host.Outcome.next.inj h).symm⟩
  · rename_i hl; exact .inr ⟨by simpa using hl, (Host.Outcome.next.inj h).symm⟩

/-- All a pause can answer (R134). -/
theorem State.pause_eq_next (h : s.pause = .next t) :
    (s.loaded = true ∧ t = State.reply { s with
        running := false, resync := if s.running && decide (0 < s.pc.toNat) then true else s.resync }
      (some (.bool true))) ∨
    (s.loaded = false ∧ t = s.reply (some (.bool false))) := by
  unfold State.pause at h
  split at h
  · rename_i hl; exact .inl ⟨hl, (Host.Outcome.next.inj h).symm⟩
  · rename_i hl; exact .inr ⟨by simpa using hl, (Host.Outcome.next.inj h).symm⟩

/-- All a stop can answer (R135). -/
theorem State.stop_eq_next (h : s.stop = .next t) :
    (s.loaded = true ∧ ∃ notes, s.noteOffAll s.notes = .next notes ∧
      t = State.reply { s with running := false, pc := 0, due := 0, notes := notes } (some (.bool true))) ∨
    (s.loaded = false ∧ t = s.reply (some (.bool false))) := by
  unfold State.stop at h
  split at h
  · rename_i hl
    obtain ⟨notes, hn, h⟩ := andThen_eq_next.1 h
    exact .inl ⟨hl, notes, hn, (Host.Outcome.next.inj h).symm⟩
  · rename_i hl; exact .inr ⟨by simpa using hl, (Host.Outcome.next.inj h).symm⟩

end Sys2Proof.Machine
end

section
/-! Every step keeps the invariant. An update breaks it for a while: once the time base has moved `now`, the stored amplitudes
are old, and the loop may stand one past the last command. `State.MidUpdate` is what holds meanwhile. -/

namespace Sys2Proof.Machine

variable {s t : State}

/-! ### The invariant does not see the inputs and outputs (R29) -/

theorem State.Inv.with_inbox (h : s.Inv) (ops : List HostOp) : State.Inv { s with inbox := ops } := { h with }

theorem State.Inv.with_reply (h : s.Inv) (r : Option Reply) : (s.reply r).Inv := { h with }

/-! ### `construct` and `load` -/

/-- What `construct` leaves meets the invariant: of the old state it needs the ranges of R7 alone. -/
theorem State.Inv.with_construct (h : s.Inv) (offset : U16) : (s.constructed offset).Inv where
  stepCap_pos := h.stepCap_pos
  nChannels_range := h.nChannels_range
  unloaded := by simp
  image_contiguous := rfl
  image_long := by simp
  header := by simp
  pc_legal := .inr rfl
  voice_legal := .inr rfl
  due_at_start := fun _ => rfl
  due_bound := Nat.zero_le _
  clock := Nat.zero_le _
  tick_range := by simp
  paused_resync := fun hp => by simp [State.paused] at hp
  notes_wf := rfl
  notes_legal := by simp
  notes_current := by simp

/-- A buffer that passes the checks of R44 leaves a machine that meets the invariant. -/
theorem State.Inv.with_program (h : s.Inv) {buf : List Byte} (hok : loadCheck s.params.layout buf = .ok) :
    (s.withProgram buf).Inv := by
  obtain ⟨hmagic, hlen⟩ := loadCheck_eq_ok.1 hok
  have hcount : countOffset s.params.layout (bufferVoices buf) + 1 < buf.length := by
    unfold imageEnd commandBase at hlen; omega
  have hsix : 6 ≤ buf.length := by unfold countOffset headerBytes at hcount; omega
  have hvoices : (s.withProgram buf).voiceCount.toNat = bufferVoices buf := toNat_bufferVoices buf
  have hcommands : (s.withProgram buf).commandCount.toNat = bufferCommands s.params.layout buf := toNat_bufferCommands _ buf
  exact { h.with_construct s.channelOffset with
    unloaded := by simp
    image_contiguous := by simp
    image_long := fun _ => by rw [hvoices, hcommands, State.withProgram_image, Memory.length_ofBytes]; exact hlen
    header := fun _ => by
      rw [hvoices, State.withProgram_voiceCount, ofNat_bufferVoices, State.withProgram_commandCount, ofNat_bufferCommands,
        loByte_le16, hiByte_le16]
      exact ⟨Memory.readBytes_ofBytes_header hmagic hsix, Memory.readBytes_ofBytes_two hcount⟩
    pc_legal := .inr rfl
    voice_legal := .inr rfl
    clock := Nat.zero_le _
    tick_range := h.tick_range
    notes_legal := by simp
    notes_current := by simp }

theorem State.Inv.load (h : s.Inv) {buf : List Byte} (ht : s.load buf = .next t) : t.Inv := by
  rcases State.load_eq_next ht with ⟨hok, rfl⟩ | ⟨-, rfl⟩
  · exact (h.with_program hok).with_reply _
  · exact h.with_reply _

theorem State.Inv.construct (h : s.Inv) {offset : U16} {buffer : Option (List Byte)} (ht : s.construct offset buffer = .next t) :
    t.Inv := by
  cases buffer with
  | none =>
    obtain rfl : (s.constructed offset).reply none = t := by simpa [State.construct] using ht
    exact (h.with_construct offset).with_reply _
  | some buf =>
    simp only [State.construct, andThen_eq_next, Host.Outcome.next.injEq] at ht
    obtain ⟨u, hu, rfl⟩ := ht
    exact ((h.with_construct offset).load hu).with_reply _

/-! ### `start`, `pause` and `stop` -/

theorem State.Inv.start (h : s.Inv) (ht : s.start = .next t) : t.Inv := by
  rcases State.start_eq_next ht with ⟨hl, rfl⟩ | ⟨-, rfl⟩
  · exact { h with
      unloaded := fun hu => Bool.noConfusion (hl.symm.trans hu)
      paused_resync := fun hp => by simp [State.paused] at hp }
  · exact h.with_reply _

/-- A machine that becomes Paused sets `resync`; one that was Paused has it already (R21, R134). -/
theorem State.Inv.pause (h : s.Inv) (ht : s.pause = .next t) : t.Inv := by
  rcases State.pause_eq_next ht with ⟨hl, rfl⟩ | ⟨-, rfl⟩
  · exact { h with
      unloaded := fun hu => Bool.noConfusion (hl.symm.trans hu)
      paused_resync := fun hp => by
        have hpc : 0 < s.pc.toNat := by simpa [State.paused] using hp
        cases hr : s.running
        · simpa [hr] using h.paused_resync (by simp [State.paused, hr, hpc])
        · simp [hpc] }
  · exact h.with_reply _

/-- A stop releases every note where its envelope stands, so no amplitude changes (R113, R135). -/
theorem State.Inv.stop (h : s.Inv) (ht : s.stop = .next t) : t.Inv := by
  rcases State.stop_eq_next ht with ⟨hl, notes, hn, rfl⟩ | ⟨-, rfl⟩
  · exact { h with
      unloaded := fun hu => Bool.noConfusion (hl.symm.trans hu)
      pc_legal := .inr rfl
      due_at_start := fun _ => rfl
      due_bound := Nat.zero_le _
      paused_resync := fun hp => by simp [State.paused] at hp
      notes_wf := State.noteOffAll_wf hn h.notes_wf
      notes_legal := fun slot hs => by
        obtain ⟨r, hm, hr⟩ := State.mem_of_noteOffAll hn hs
        exact State.noteOff_legal hr (h.notes_legal _ hm)
      notes_current := fun slot hs => by
        obtain ⟨r, hm, hr⟩ := State.mem_of_noteOffAll hn hs
        exact State.noteOff_current hr (h.notes_current _ hm) }
  · exact h.with_reply _

/-! ### `update` -/

/-- The machine with its run taken away: the program and the clock stay. -/
def State.atRest (s : State) : State :=
  { s with running := false, pc := 0, curChannel := 0, curVoice := 0, due := 0, notes := [], log := [] }

/-- What holds between the time base and the ENV pass of an update: the program and the clock are as the invariant says, `pc` may
be one past the last command, and of the amplitudes only the release levels are bounded. -/
structure State.MidUpdate (s : State) : Prop where
  rest : s.atRest.Inv
  /-- R11, R133. -/
  running_loaded : s.running = true → s.loaded = true
  /-- An update that gets this far is not Paused (R139). -/
  not_paused : s.running = true ∨ s.pc = 0
  pc_le : s.pc.toNat ≤ s.commandCount.toNat
  voice_legal : s.curVoice.toNat < s.voiceCount.toNat ∨ s.curVoice = 0
  due_at_start : s.pc = 0 → s.due = 0
  due_bound : s.due.toNat ≤ s.now.toNat + 65535
  notes_wf : NoteTable.wf s.notes = true
  notes_legal : ∀ slot ∈ s.notes, s.slotLegal slot
  /-- R122 (e). -/
  notes_released : ∀ slot ∈ s.notes, ∀ p, s.envParams slot.2.voice = .next p → slot.2.relAmp.toNat ≤ p.volume.toNat

theorem State.Inv.atRest (h : s.Inv) : s.atRest.Inv :=
  { h with
    unloaded := fun hu => by
      obtain ⟨himage, hversion, hvoices, hcount, -⟩ := h.unloaded hu
      exact ⟨himage, hversion, hvoices, hcount, rfl, rfl, rfl⟩
    pc_legal := .inr rfl
    voice_legal := .inr rfl
    due_at_start := fun _ => rfl
    due_bound := Nat.zero_le _
    paused_resync := fun hp => by simp [State.paused, State.atRest] at hp
    notes_wf := rfl
    notes_legal := by simp [State.atRest]
    notes_current := by simp [State.atRest] }

/-- A slot stays legal while engine time passes. -/
theorem State.slotLegal_mono {now : U32} (h : s.now.toNat ≤ now.toNat) {slot : Nat × Note} (hl : s.slotLegal slot) :
    State.slotLegal { s with now := now } slot := by
  obtain ⟨hc, hv, hst, hoff, hd⟩ := hl
  exact ⟨hc, hv, hst.trans h, fun off ho => ⟨(hoff off ho).1, (hoff off ho).2.trans h⟩, hd⟩

theorem State.Inv.running_loaded (h : s.Inv) (hr : s.running = true) : s.loaded = true := by
  by_contra hl
  obtain ⟨-, -, -, -, hstop, -⟩ := h.unloaded (by simpa using hl)
  simp [hr] at hstop

theorem State.Inv.notes_released (h : s.Inv) (slot : Nat × Note) (hs : slot ∈ s.notes) (p : EnvParams)
    (hp : s.envParams slot.2.voice = .next p) : slot.2.relAmp.toNat ≤ p.volume.toNat := by
  obtain ⟨p', -, hp', hrel, -⟩ := State.slotCurrent_iff.1 (h.notes_current slot hs)
  obtain rfl : p = p' := by simpa [hp] using hp'
  exact hrel

/-- The invariant between operations gives the one within an update, when the machine is not Paused. -/
theorem State.Inv.midUpdate (h : s.Inv) (hp : s.paused = false) : s.MidUpdate :=
  { h with
    rest := h.atRest
    running_loaded := h.running_loaded
    not_paused := by
      have hpc : s.running = true ∨ s.pc.toNat = 0 := by simpa [State.paused, or_iff_not_imp_left] using hp
      exact hpc.imp id fun h0 => BitVec.eq_of_toNat_eq h0
    pc_le := by
      rcases h.pc_legal with hpc | hpc
      · exact Nat.le_of_lt hpc
      · simp [hpc]
    notes_released := h.notes_released }

/-- A new admissible tick keeps the invariant: it is not below the last one (R140). -/
theorem State.Inv.with_tick (h : s.Inv) {tick : U32} (ht : s.tickAdmissible tick = true) :
    State.Inv { s with lastTick := tick } := by
  obtain ⟨hle, hlt⟩ : s.lastTick.toNat ≤ tick.toNat ∧ tick.toNat < tickLimit := by simpa [State.tickAdmissible] using ht
  exact { h with
    clock := h.clock.trans hle
    tick_range := hlt }

/-- The time base gives the whole of the clock to `skew` after a pause, else to `now` (R141). -/
theorem State.MidUpdate.timeBase (h : s.MidUpdate) (ht : s.timeBase s.lastTick = .next t) : t.MidUpdate := by
  rcases State.timeBase_eq_next.1 ht with ⟨-, hle, rfl⟩ | ⟨-, hle, rfl⟩
  · have hsub := sub_toNat hle
    exact { h with
      rest := { h.rest with
        clock := by show (s.lastTick - s.now).toNat + s.now.toNat ≤ s.lastTick.toNat; omega
        paused_resync := fun hp => by simp [State.paused, State.atRest] at hp } }
  · have hsub := sub_toNat (a := s.lastTick) (b := s.skew) (by omega)
    have hmono : s.now.toNat ≤ (s.lastTick - s.skew).toNat := by omega
    exact { h with
      rest := { h.rest with
        due_bound := Nat.zero_le _
        clock := by show s.skew.toNat + (s.lastTick - s.skew).toNat ≤ s.lastTick.toNat; omega
        notes_legal := by simp [State.atRest]
        notes_current := by simp [State.atRest] }
      due_bound := h.due_bound.trans (Nat.add_le_add_right hmono _)
      notes_legal := fun slot hs => State.slotLegal_mono hmono (h.notes_legal slot hs) }

theorem toNat_loByte_of_lt {x : U16} (h : x.toNat < 256) : (loByte x).toNat = x.toNat := by
  simpa [loByte, BitVec.extractLsb'_toNat] using Nat.mod_eq_of_lt h

/-- Moving on to the next command, before its effect. -/
theorem State.MidUpdate.next_pc (h : s.MidUpdate) (hrun : s.running = true) (hpc : s.pc ≠ s.commandCount)
    (hlt : s.pc.toNat + 1 < 65536) : (s.setPc (s.pc + 1)).MidUpdate := by
  have hne : s.pc.toNat ≠ s.commandCount.toNat := fun he => hpc (BitVec.eq_of_toNat_eq he)
  have hsucc := pc_succ_toNat hlt
  have hle := h.pc_le
  exact { h with
    not_paused := .inl hrun
    pc_le := by show (s.pc + 1).toNat ≤ s.commandCount.toNat; omega
    due_at_start := fun h0 => absurd h0 (pc_succ_ne_zero hlt) }

/-- The note a `PLAY` creates is legal (R28, R85). -/
theorem State.slotLegal_newNote (x : U16) (hv : s.curVoice.toNat < s.voiceCount.toNat)
    (hc : s.curChannel.toNat < s.params.nChannels) : s.slotLegal (s.curChannel.toNat, s.newNote x) :=
  ⟨hc, hv, Nat.le_refl _, by simp [State.newNote], by simp [State.newNote]⟩

/-- A command and its advance keep what holds within an update. -/
theorem State.MidUpdate.command {u : State} (h : s.MidUpdate) (hrun : s.running = true) (hpc : s.pc ≠ s.commandCount)
    (hlt : s.pc.toNat + 1 < 65536) (hu : s.CommandEffect u) : (u.setPc (s.pc + 1)).MidUpdate := by
  have hnext := h.next_pc hrun hpc hlt
  cases hu with
  | unchanged => exact hnext
  | channel x => exact { hnext with }
  | voice x hx =>
    refine { hnext with voice_legal := .inl ?_ }
    show (loByte x).toNat < s.voiceCount.toNat
    rwa [toNat_loByte_of_lt (hx.trans s.voiceCount.isLt)]
  | logged e => exact { hnext with }
  | note x hv hc =>
    exact { hnext with
      notes_wf := NoteTable.wf_set h.notes_wf _ _
      notes_legal := fun slot hs => by
        rcases mem_insertKey hs with rfl | hs
        · exact State.slotLegal_newNote x hv hc
        · exact hnext.notes_legal slot hs
      notes_released := fun slot hs p hp => by
        rcases mem_insertKey hs with rfl | hs
        · exact Nat.zero_le _
        · exact hnext.notes_released slot hs p hp }
  | wait x hx =>
    have hdue : (s.now + x.setWidth 32).toNat ≤ s.now.toNat + 65535 := by
      have := x.isLt
      rw [BitVec.toNat_add, BitVec.toNat_setWidth]
      omega
    exact { hnext with
      due_at_start := fun h0 => absurd h0 (pc_succ_ne_zero hlt)
      due_bound := hdue }

theorem State.MidUpdate.endOfSong (h : s.MidUpdate) : s.endOfSong.MidUpdate :=
  { h with
    running_loaded := fun hr => by simp at hr
    not_paused := .inr rfl
    pc_le := Nat.zero_le _
    due_at_start := fun _ => rfl
    due_bound := Nat.zero_le _ }

/-- The loop exits at a legal index (R12, R76). -/
theorem State.MidUpdate.sequence (h : s.MidUpdate) (ht : s.sequence = .next t) :
    t.MidUpdate ∧ (t.pc ≠ t.commandCount ∨ t.pc = 0) := by
  unfold State.sequence at ht
  split at ht
  · rename_i hrun
    have hstep : ∀ (u : State) (i : Instr) (v : State), u.MidUpdate ∧ u.running = true → u.pc ≠ u.commandCount →
        u.due.toNat ≤ u.now.toNat → u.fetch u.pc = .next i → exec i u = .next v → v.MidUpdate ∧ v.running = true := by
      rintro u i v ⟨hu, hr⟩ hpc - - hv
      obtain ⟨hlt, w, hw, rfl⟩ := exec_eq_next hv
      exact ⟨hu.command hr hpc hlt hw, hw.running_eq.trans hr⟩
    rcases pcdLoop_keeps (P := fun u => u.MidUpdate ∧ u.running = true) hstep ⟨h, hrun⟩ ht with
      ⟨u, ⟨hu, -⟩, -, rfl⟩ | ⟨⟨ht, -⟩, hpc⟩
    · exact ⟨hu.endOfSong, .inr rfl⟩
    · exact ⟨ht, .inl hpc⟩
  · rename_i hrun
    obtain rfl := Host.Outcome.next.inj ht
    exact ⟨h, .inr (h.not_paused.resolve_left hrun)⟩

/-- A slot the ENV pass keeps is legal and current at the engine time of the pass (R119). -/
theorem State.MidUpdate.slot_of_envNotes (h : s.MidUpdate) {out : List Event × NoteTable}
    (hout : s.envNotes s.now s.notes = .next out) {slot : Nat × Note} (hs : slot ∈ out.2) :
    s.slotLegal slot ∧ s.slotCurrent slot = true := by
  obtain ⟨c, r'⟩ := slot
  obtain ⟨r, pa, hm, hpa, hne, rfl⟩ := State.mem_of_envNotes hout hs
  obtain ⟨p, hp, henv⟩ := State.noteEnv_eq_next.1 hpa
  obtain ⟨hc, hv, hst, hoff, -⟩ := h.notes_legal _ hm
  have hrel := h.notes_released _ hm p hp
  have hamp := toNat_ofNat_of_le (env_le_volume (State.envParams_sustain_le hp) hrel henv)
  exact ⟨⟨hc, hv, hst, hoff, hne⟩, State.slotCurrent_iff.2 ⟨p, pa, hp, hrel, henv, hne, hamp.symm⟩⟩

/-- A machine without a program has no note: no voice exists (R11). -/
theorem State.MidUpdate.unloaded (h : s.MidUpdate) (hl : s.loaded = false) :
    s.image = [] ∧ s.version = 0 ∧ s.voiceCount = 0 ∧ s.commandCount = 0 ∧ s.running = false ∧ s.pc = 0 ∧ s.notes = [] := by
  obtain ⟨himage, hversion, hvoices, hcount, -⟩ := h.rest.unloaded hl
  have hvoices' : s.voiceCount = 0 := hvoices
  have hcount' : s.commandCount = 0 := hcount
  have hrun : s.running = false := by
    by_contra hr
    simp [h.running_loaded (by simpa using hr)] at hl
  refine ⟨himage, hversion, hvoices, hcount, hrun, h.not_paused.resolve_left (by simp [hrun]), ?_⟩
  refine List.eq_nil_iff_forall_not_mem.2 fun slot hs => ?_
  obtain ⟨-, hv, -⟩ := h.notes_legal slot hs
  simp [hvoices'] at hv

/-- The ENV pass restores the invariant: it evaluates every note at `now` (R119). -/
theorem State.MidUpdate.envPass (h : s.MidUpdate) (hpc : s.pc ≠ s.commandCount ∨ s.pc = 0) (ht : s.envPass = .next t) :
    t.Inv := by
  obtain ⟨out, hout, rfl⟩ := State.envPass_eq_next.1 ht
  exact { h.rest with
    unloaded := fun hl => by
      obtain ⟨himage, hversion, hvoices, hcount, hrun, hpc0, hnotes⟩ := h.unloaded hl
      refine ⟨himage, hversion, hvoices, hcount, hrun, hpc0, ?_⟩
      simpa [hnotes] using State.envNotes_keys_sublist hout
    pc_legal := hpc.imp_left fun hne => Nat.lt_of_le_of_ne h.pc_le fun he => hne (BitVec.eq_of_toNat_eq he)
    voice_legal := h.voice_legal
    due_at_start := h.due_at_start
    due_bound := h.due_bound
    paused_resync := fun hp => by
      rcases h.not_paused with hr | h0
      · simp [State.paused, hr] at hp
      · simp [State.paused, h0] at hp
    notes_wf := State.envNotes_wf hout h.notes_wf
    notes_legal := fun slot hs => (h.slot_of_envNotes hout hs).1
    notes_current := fun slot hs => (h.slot_of_envNotes hout hs).2 }

theorem State.Inv.update (h : s.Inv) {tick : U32} (ht : s.update tick = .next t) : t.Inv := by
  obtain ⟨hadm, ⟨-, rfl⟩ | ⟨hp, ht⟩⟩ := State.update_eq_next ht
  · exact (h.with_tick hadm).with_reply _
  · obtain ⟨s1, s2, s3, h1, h2, h3, rfl⟩ := State.effectiveUpdate_eq_next.1 ht
    have hmid : s1.MidUpdate := ((h.with_tick hadm).midUpdate hp).timeBase h1
    obtain ⟨hseq, hpc⟩ := State.MidUpdate.sequence (s := { s1 with log := [] }) { hmid with } h2
    exact { hseq.envPass hpc h3 with }

/-! ### One step -/

theorem hostOp_keeps_inv (h : s.Inv) {op : HostOp} (ht : hostOp op s = .next t) : t.Inv := by
  cases op with
  | construct offset buffer => exact h.construct ht
  | load buffer => exact h.load ht
  | start => exact h.start ht
  | pause => exact h.pause ht
  | stop => exact h.stop ht
  | update tick => exact h.update ht
  | isRunning => exact Host.Outcome.next.inj ht ▸ h.with_reply _
  | isPaused => exact Host.Outcome.next.inj ht ▸ h.with_reply _

/-- Settles O51, operation by operation; within an `update` the invariant is weakened to `State.MidUpdate`, which the time base
and every command keep and from which the ENV pass restores it. -/
theorem stepKeepsTheInvariant : Obligations.StepKeepsTheInvariant := by
  intro s t h ht
  cases hin : s.inbox with
  | nil =>
    rw [step_idle hin] at ht
    exact Host.Outcome.next.inj ht ▸ h
  | cons op rest =>
    rw [step_cons hin] at ht
    exact hostOp_keeps_inv (h.with_inbox rest) ht

end Sys2Proof.Machine
end

section
/-! Reset (R30), what a command touches (R31, R164), and what the operations keep of the clock and of the program (R19, R20, R50). -/

namespace Sys2Proof.Machine

variable {s t : State}

/-! ### Reset -/

/-- Settles O13: each is the value of its field in `State.reset`. -/
theorem resetIsStoppedAndEmpty : Obligations.ResetIsStoppedAndEmpty :=
  ⟨rfl, rfl, rfl, rfl, rfl, rfl, rfl, rfl, rfl, rfl, rfl, rfl, rfl, fun _ => rfl, fun _ => rfl⟩

/-- Settles O50, field by field: nothing is loaded and no note sounds, so only the ranges of the default parameters and of the
registers at 0 are left. -/
theorem invariantHoldsAtReset : Obligations.InvariantHoldsAtReset where
  stepCap_pos := by decide
  nChannels_range := by decide
  unloaded := fun _ => ⟨rfl, rfl, rfl, rfl, rfl, rfl, rfl⟩
  image_contiguous := rfl
  image_long := fun hl => Bool.noConfusion hl
  header := fun hl => Bool.noConfusion hl
  pc_legal := .inr rfl
  voice_legal := .inr rfl
  due_at_start := fun _ => rfl
  due_bound := Nat.zero_le _
  clock := Nat.le_refl _
  tick_range := by decide
  paused_resync := fun hp => Bool.noConfusion hp
  notes_wf := rfl
  notes_legal := fun _ hs => absurd hs List.not_mem_nil
  notes_current := fun _ hs => absurd hs List.not_mem_nil

/-! ### What each command touches -/

/-- What command `i` does before `pc` advances: it writes what is its own, or it is skipped and logged (R82 to R87).
`State.CommandEffect` does not tell which command it was. -/
inductive Instr.Effect (s : State) : Instr → State → Prop
  | nop (x : U16) : Effect s (.nop x) s
  | setChannel (x : U16) : Effect s (.setChannel x) (s.setCurChannel x)
  | setVoice (x : U16) : Effect s (.setVoice x) (s.setCurVoice (loByte x))
  | play (x : U16) : Effect s (.play x) (s.setNotes (s.notes.set s.curChannel.toNat (s.newNote x)))
  | wait (x : U16) : Effect s (.wait x) (s.setDue (s.now + x.setWidth 32))
  | skipped (i : Instr) (e : ErrorCode) : Effect s i (s.raise e)

/-- Every command is an effect of its own, then the advance (R88). -/
theorem exec_ownEffect {i : Instr} (h : exec i s = .next t) : ∃ u, Instr.Effect s i u ∧ u.advance = .next t := by
  cases i with
  | nop x => exact ⟨_, .nop x, h⟩
  | setChannel x => exact ⟨_, .setChannel x, h⟩
  | setVoice x =>
    simp only [exec, execSetVoice] at h
    split at h
    · exact ⟨_, .setVoice x, h⟩
    · exact ⟨_, .skipped _ _, h⟩
  | play x =>
    simp only [exec, execPlay] at h
    split_ifs at h
    · exact ⟨_, .skipped _ _, h⟩
    · exact ⟨_, .skipped _ _, h⟩
    · exact ⟨_, .play x, h⟩
  | wait x =>
    simp only [exec, execWait] at h
    split at h
    · exact ⟨_, .wait x, h⟩
    · cases h
  | unknown opcode x => exact ⟨_, .skipped _ _, h⟩

/-- Settles O28: the advance writes `pc` alone, and of each command's own effect every clause is read off, the clause on what the
command may write being empty. -/
theorem commandsTouchOnlyTheirOwn : Obligations.CommandsTouchOnlyTheirOwn := by
  intro i s t h
  obtain ⟨u, hu, hadv⟩ := exec_ownEffect h
  obtain ⟨hlt, rfl⟩ := State.advance_eq_next.1 hadv
  cases hu with
  | nop x =>
    exact ⟨rfl, pc_succ_toNat hlt, fun _ => rfl, fun _ => rfl, fun _ => rfl, fun _ => rfl, fun _ _ => rfl, .inl rfl, fun _ => rfl⟩
  | setChannel x =>
    exact ⟨rfl, pc_succ_toNat hlt, fun hi => absurd rfl (hi x), fun _ => rfl, fun _ => rfl, fun _ => rfl, fun _ _ => rfl, .inl rfl,
      fun _ => rfl⟩
  | setVoice x =>
    exact ⟨rfl, pc_succ_toNat hlt, fun _ => rfl, fun hi => absurd rfl (hi x), fun _ => rfl, fun _ => rfl, fun _ _ => rfl, .inl rfl,
      fun _ => rfl⟩
  | play x =>
    exact ⟨rfl, pc_succ_toNat hlt, fun _ => rfl, fun _ => rfl, fun _ => rfl, fun hi => absurd rfl (hi x),
      fun _ hc => NoteTable.get_set_other hc _ _, .inl rfl, fun _ => rfl⟩
  | wait x =>
    exact ⟨rfl, pc_succ_toNat hlt, fun _ => rfl, fun _ => rfl, fun hi => absurd rfl (hi x), fun _ => rfl, fun _ _ => rfl, .inl rfl,
      fun _ => rfl⟩
  | skipped i e =>
    exact ⟨rfl, pc_succ_toNat hlt, fun _ => rfl, fun _ => rfl, fun _ => rfl, fun _ => rfl, fun _ _ => rfl, .inr ⟨e, rfl⟩,
      fun _ => rfl⟩

/-! ### What a run leaves alone

`State.atRest` is the machine without its run, so an operation that writes nothing but the run keeps it. -/

theorem exec_atRest {i : Instr} (h : exec i s = .next t) : t.atRest = s.atRest := by
  obtain ⟨-, u, hu, rfl⟩ := exec_eq_next h
  cases hu <;> rfl

/-- The loop runs commands and may end the song: neither reaches beyond the run (R76, R77). -/
theorem State.sequence_atRest (h : s.sequence = .next t) : t.atRest = s.atRest := by
  unfold State.sequence at h
  split at h
  · have hstep : ∀ (u : State) (i : Instr) (v : State), u.atRest = s.atRest → u.pc ≠ u.commandCount →
        u.due.toNat ≤ u.now.toNat → u.fetch u.pc = .next i → exec i u = .next v → v.atRest = s.atRest :=
      fun _ _ _ hu _ _ _ hv => (exec_atRest hv).trans hu
    rcases pcdLoop_keeps (P := fun u => u.atRest = s.atRest) hstep rfl h with ⟨u, hu, -, rfl⟩ | ⟨ht, -⟩
    · exact hu
    · exact ht
  · obtain rfl := Host.Outcome.next.inj h
    rfl

/-! ### The program

`State.program` is what `construct` and `load` set; a run and the clock lie outside it. -/

/-- The program of a machine: the parameters, what `construct` and `load` set (R22, R23, R25), and the operations to come;
everything else at its reset value. -/
def State.program (s : State) : State :=
  { State.reset with
    params := s.params, loaded := s.loaded, channelOffset := s.channelOffset, version := s.version, voiceCount := s.voiceCount
    commandCount := s.commandCount, image := s.image, inbox := s.inbox }

/-- Two machines with the same program agree on each field of it. -/
theorem State.program_eq_iff :
    t.program = s.program ↔ t.params = s.params ∧ t.loaded = s.loaded ∧ t.channelOffset = s.channelOffset ∧
      t.version = s.version ∧ t.voiceCount = s.voiceCount ∧ t.commandCount = s.commandCount ∧ t.image = s.image ∧
      t.inbox = s.inbox := by
  simp only [State.program, State.mk.injEq, true_and, and_true]

theorem State.program_eq_of_atRest (h : t.atRest = s.atRest) : t.program = s.program :=
  (congrArg State.program h :)

theorem State.timeBase_program {tick : U32} (h : s.timeBase tick = .next t) : t.program = s.program := by
  rcases State.timeBase_eq_next.1 h with ⟨-, -, rfl⟩ | ⟨-, -, rfl⟩ <;> rfl

/-- An effective update leaves the program and the clock as its time base does (R136). -/
theorem State.effectiveUpdate_timeBase {tick : U32} (h : s.effectiveUpdate tick = .next t) :
    ∃ s1, s.timeBase tick = .next s1 ∧ t.program = s1.program ∧ t.now = s1.now ∧ t.skew = s1.skew ∧
      t.lastTick = s1.lastTick := by
  obtain ⟨s1, s2, s3, h1, h2, h3, rfl⟩ := State.effectiveUpdate_eq_next.1 h
  obtain ⟨out, -, rfl⟩ := State.envPass_eq_next.1 h3
  have hrest : s2.atRest = s1.atRest := (State.sequence_atRest h2 :)
  exact ⟨s1, h1, (State.program_eq_of_atRest hrest :), (congrArg State.now hrest :), (congrArg State.skew hrest :),
    (congrArg State.lastTick hrest :)⟩

theorem State.update_program {tick : U32} (h : s.update tick = .next t) : t.program = s.program := by
  obtain ⟨-, ⟨-, rfl⟩ | ⟨-, h⟩⟩ := State.update_eq_next h
  · rfl
  · obtain ⟨s1, h1, hprog, -⟩ := State.effectiveUpdate_timeBase h
    exact hprog.trans (State.timeBase_program h1 :)

/-- R50: an operation that is neither `construct` nor `load` keeps the program. -/
theorem hostOp_program {op : HostOp} (hk : op.keepsProgram = true) (h : hostOp op s = .next t) : t.program = s.program := by
  cases op with
  | construct offset buffer => cases hk
  | load buffer => cases hk
  | start => rcases State.start_eq_next h with ⟨-, rfl⟩ | ⟨-, rfl⟩ <;> rfl
  | pause => rcases State.pause_eq_next h with ⟨-, rfl⟩ | ⟨-, rfl⟩ <;> rfl
  | stop => rcases State.stop_eq_next h with ⟨-, _, -, rfl⟩ | ⟨-, rfl⟩ <;> rfl
  | update tick => exact State.update_program h
  | isRunning => exact Host.Outcome.next.inj h ▸ rfl
  | isPaused => exact Host.Outcome.next.inj h ▸ rfl

theorem State.load_params_inbox {buf : List Byte} (h : s.load buf = .next t) : t.params = s.params ∧ t.inbox = s.inbox := by
  rcases State.load_eq_next h with ⟨-, rfl⟩ | ⟨-, rfl⟩ <;> exact ⟨rfl, rfl⟩

theorem State.construct_params_inbox {offset : U16} {buffer : Option (List Byte)} (h : s.construct offset buffer = .next t) :
    t.params = s.params ∧ t.inbox = s.inbox := by
  cases buffer with
  | none => exact Host.Outcome.next.inj h ▸ ⟨rfl, rfl⟩
  | some buf =>
    obtain ⟨u, hu, ht⟩ := andThen_eq_next.1 h
    obtain rfl := Host.Outcome.next.inj ht
    have hload : u.params = (s.constructed offset).params ∧ u.inbox = (s.constructed offset).inbox := State.load_params_inbox hu
    exact hload

/-- No operation changes a parameter or the operations after it (log entries 1 and 2). -/
theorem hostOp_params_inbox {op : HostOp} (h : hostOp op s = .next t) : t.params = s.params ∧ t.inbox = s.inbox := by
  cases hk : op.keepsProgram with
  | true =>
    obtain ⟨hparams, -, -, -, -, -, -, hinbox⟩ := State.program_eq_iff.1 (hostOp_program hk h)
    exact ⟨hparams, hinbox⟩
  | false =>
    cases op with
    | construct offset buffer => exact State.construct_params_inbox h
    | load buffer => exact State.load_params_inbox h
    | _ => cases hk

/-- Settles O55: the fields it asks about are those of `State.program`. -/
theorem programIsImmutable : Obligations.ProgramIsImmutable := by
  intro s t op rest hin ht
  rw [step_cons hin] at ht
  obtain ⟨hparams, hinbox⟩ := hostOp_params_inbox ht
  refine ⟨hparams, hinbox, fun hk => ?_⟩
  obtain ⟨-, hloaded, hoffset, hversion, hvoices, hcount, himage, -⟩ := State.program_eq_iff.1 (hostOp_program hk ht)
  exact ⟨fun a => congrArg (Memory.read · a) himage, himage, hversion, hvoices, hcount, hoffset, hloaded⟩

/-! ### The clock -/

/-- The time base only moves forward: the bound on the clock leaves `tick - now` at or above `skew`, and `tick - skew` at or
above `now` (R140, R141). -/
theorem State.timeBase_mono {tick : U32} (hclock : s.skew.toNat + s.now.toNat ≤ tick.toNat) (h : s.timeBase tick = .next t) :
    s.now.toNat ≤ t.now.toNat ∧ s.skew.toNat ≤ t.skew.toNat ∧ t.lastTick = s.lastTick := by
  rcases State.timeBase_eq_next.1 h with ⟨-, hle, rfl⟩ | ⟨-, -, rfl⟩
  · exact ⟨Nat.le_refl _, by rw [sub_toNat hle]; omega, rfl⟩
  · exact ⟨by rw [sub_toNat (by omega)]; omega, Nat.le_refl _, rfl⟩

theorem State.Inv.update_clock_mono (h : s.Inv) {tick : U32} (ht : s.update tick = .next t) :
    s.now.toNat ≤ t.now.toNat ∧ s.skew.toNat ≤ t.skew.toNat ∧ s.lastTick.toNat ≤ t.lastTick.toNat := by
  obtain ⟨hadm, ht⟩ := State.update_eq_next ht
  obtain ⟨hle, -⟩ : s.lastTick.toNat ≤ tick.toNat ∧ tick.toNat < tickLimit := by simpa [State.tickAdmissible] using hadm
  rcases ht with ⟨-, rfl⟩ | ⟨-, ht⟩
  · exact ⟨Nat.le_refl _, Nat.le_refl _, hle⟩
  · obtain ⟨s1, h1, -, hnow, hskew, htick⟩ := State.effectiveUpdate_timeBase ht
    obtain ⟨hnow1, hskew1, htick1⟩ := State.timeBase_mono (s := { s with lastTick := tick }) (h.clock.trans hle) h1
    rw [hnow, hskew, htick, htick1]
    exact ⟨hnow1, hskew1, hle⟩

/-- Settles O54: `update` moves the clock forward, and no other operation that keeps the program touches it. -/
theorem timeNeverRunsBackwards : Obligations.TimeNeverRunsBackwards := by
  intro s t op rest h hin hk ht
  rw [step_cons hin] at ht
  have hrefl : s.now.toNat ≤ s.now.toNat ∧ s.skew.toNat ≤ s.skew.toNat ∧ s.lastTick.toNat ≤ s.lastTick.toNat :=
    ⟨Nat.le_refl _, Nat.le_refl _, Nat.le_refl _⟩
  cases op with
  | construct offset buffer => cases hk
  | load buffer => cases hk
  | start => rcases State.start_eq_next ht with ⟨-, rfl⟩ | ⟨-, rfl⟩ <;> exact hrefl
  | pause => rcases State.pause_eq_next ht with ⟨-, rfl⟩ | ⟨-, rfl⟩ <;> exact hrefl
  | stop => rcases State.stop_eq_next ht with ⟨-, _, -, rfl⟩ | ⟨-, rfl⟩ <;> exact hrefl
  | update tick => exact (h.with_inbox rest).update_clock_mono ht
  | isRunning => exact Host.Outcome.next.inj ht ▸ hrefl
  | isPaused => exact Host.Outcome.next.inj ht ▸ hrefl

end Sys2Proof.Machine
end

section
/-! What no step reads: the outputs of the one before (R29), and the bytes of the image outside `State.readsOffset` (R26, R42). The
machine with other ones is followed through an update beside the machine itself. -/

namespace Sys2Proof.Machine

/-! ### Sequences -/

section Sequences

variable {α β γ : Type}

/-- Two sequences agree when their second parts agree on what the first answers. -/
theorem andThen_congr {o : Res α} {f g : α → Res β} (h : ∀ a, o = .next a → f a = g a) : andThen o f = andThen o g := by
  cases o with
  | next a => exact h a rfl
  | fault r => rfl
  | refused r => rfl

theorem andThen_assoc (o : Res α) (f : α → Res β) (g : β → Res γ) :
    andThen (andThen o f) g = andThen o fun a => andThen (f a) g := by
  cases o <;> rfl

theorem andThen_ite (c : Prop) [Decidable c] (o o' : Res α) (f : α → Res β) :
    andThen (if c then o else o') f = if c then andThen o f else andThen o' f :=
  apply_ite (andThen · f) c o o'

theorem andThen_next_right (o : Res α) : andThen o .next = o := by
  cases o <;> rfl

end Sequences

variable {s t : State} {m : Memory}

/-! ### The reads through an index -/

/-- `m` has the bytes of the image that some rule reads. -/
def State.AgreesOnReads (s : State) (m : Memory) : Prop := ∀ a, s.readsOffset a → m.read a = s.image.read a

theorem State.agreesOnReads_image (s : State) : s.AgreesOnReads s.image := fun _ _ => rfl

/-- Which bytes are read depends on the program alone. -/
theorem State.AgreesOnReads.of_program (h : s.AgreesOnReads m) (hp : t.program = s.program) : t.AgreesOnReads m := by
  have ht : t.program.AgreesOnReads m := by rw [hp]; exact h
  exact ht

theorem memRead8_congr {m' : Memory} {a : Nat} (h : m.read a = m'.read a) : memRead8 m a = memRead8 m' a :=
  congrArg (orRefuse · _) h

theorem memRead16_congr {m' : Memory} {a : Nat} (h : m.read a = m'.read a) (h' : m.read (a + 1) = m'.read (a + 1)) :
    memRead16 m a = memRead16 m' a := by
  simp only [memRead16, memRead8_congr h, memRead8_congr h']

/-- The machine with another image and other outputs. -/
def State.withUnread (s : State) (m : Memory) (out : Option Reply) (ev : List Event) (lg : List LogEntry) : State :=
  { s with image := m, result := out, events := ev, log := lg }

section Fields

variable (s : State) (m : Memory) (out : Option Reply) (ev : List Event) (lg : List LogEntry)

@[simp] theorem State.withUnread_params : (s.withUnread m out ev lg).params = s.params := rfl
@[simp] theorem State.withUnread_pc : (s.withUnread m out ev lg).pc = s.pc := rfl
@[simp] theorem State.withUnread_now : (s.withUnread m out ev lg).now = s.now := rfl
@[simp] theorem State.withUnread_voiceCount : (s.withUnread m out ev lg).voiceCount = s.voiceCount := rfl
@[simp] theorem State.withUnread_commandCount : (s.withUnread m out ev lg).commandCount = s.commandCount := rfl
@[simp] theorem State.withUnread_image : (s.withUnread m out ev lg).image = m := rfl
@[simp] theorem State.withUnread_notes : (s.withUnread m out ev lg).notes = s.notes := rfl

@[simp] theorem State.commandOffset_withUnread (i : Nat) : (s.withUnread m out ev lg).commandOffset i = s.commandOffset i := rfl
@[simp] theorem State.eventOf_withUnread (c : Nat) (r : Note) (pa : Phase × Nat) :
    (s.withUnread m out ev lg).eventOf c r pa = s.eventOf c r pa := rfl

/-- With the log set, both machines hold the same one. -/
theorem State.setLog_withUnread (l : List LogEntry) :
    (s.withUnread m out ev lg).setLog l = (s.setLog l).withUnread m out ev (s.setLog l).log := rfl

end Fields

variable {out : Option Reply} {ev : List Event} {lg : List LogEntry}

/-- A fetch reads the opcode byte and the operand bytes of a command. -/
theorem State.AgreesOnReads.fetch_eq (h : s.AgreesOnReads m) (i : U16) : (s.withUnread m out ev lg).fetch i = s.fetch i := by
  by_cases hi : i.toNat < s.commandCount.toNat
  · have hopcode := memRead8_congr (h _ (.inr ⟨_, hi, .inl rfl⟩))
    have hoperand := memRead16_congr (h _ (.inr ⟨_, hi, .inr (.inl rfl)⟩)) (h _ (.inr ⟨_, hi, .inr (.inr rfl)⟩))
    simp [State.fetch, hi, hopcode, hoperand]
  · simp [State.fetch, hi]

/-- Of an existing voice the fields of the envelope are read. -/
theorem State.AgreesOnReads.voiceField_eq (h : s.AgreesOnReads m) {v : Byte} (hv : v.toNat < s.voiceCount.toNat) {f : VoiceField}
    (hf : f ∈ [VoiceField.volume, .attackMs, .decayMs, .sustainLevel, .sustainMs, .releaseMs]) :
    (s.withUnread m out ev lg).voiceField v f = s.voiceField v f :=
  memRead16_congr (h _ (.inl ⟨_, hv, f, hf, .inl rfl⟩)) (h _ (.inl ⟨_, hv, f, hf, .inr rfl⟩))

theorem State.AgreesOnReads.envParams_eq (h : s.AgreesOnReads m) (v : Byte) :
    (s.withUnread m out ev lg).envParams v = s.envParams v := by
  by_cases hv : v.toNat < s.voiceCount.toNat
  · simp [State.envParams, hv, h.voiceField_eq hv]
  · simp [State.envParams, hv]

/-! ### The notes -/

theorem State.AgreesOnReads.noteOff_eq (h : s.AgreesOnReads m) (r : Note) :
    (s.withUnread m out ev lg).noteOff r = s.noteOff r := by
  unfold State.noteOff
  rw [h.envParams_eq]
  rfl

theorem State.AgreesOnReads.noteOffAll_eq (h : s.AgreesOnReads m) (l : NoteTable) :
    (s.withUnread m out ev lg).noteOffAll l = s.noteOffAll l := by
  induction l with
  | nil => rfl
  | cons c l ih => simp only [State.noteOffAll, h.noteOff_eq, ih]

theorem State.AgreesOnReads.envNotes_eq (h : s.AgreesOnReads m) (et : U32) (l : NoteTable) :
    (s.withUnread m out ev lg).envNotes et l = s.envNotes et l := by
  induction l with
  | nil => rfl
  | cons c l ih => simp only [State.envNotes, State.noteEnv, h.envParams_eq, State.eventOf_withUnread, ih]

/-- The ENV pass replaces the events (R119). -/
theorem State.AgreesOnReads.envPass_eq (h : s.AgreesOnReads m) :
    (s.withUnread m out ev s.log).envPass = andThen s.envPass fun t => .next (t.withUnread m out t.events t.log) := by
  simp only [State.envPass, State.withUnread_now, State.withUnread_notes, h.envNotes_eq, andThen_assoc]
  rfl

/-! ### The loop

Commands extend the log, so from here to the end of the update both machines hold the same one. -/

theorem State.advance_withUnread (s : State) (m : Memory) (out : Option Reply) (ev : List Event) :
    (s.withUnread m out ev s.log).advance = andThen s.advance fun t => .next (t.withUnread m out ev t.log) := by
  unfold State.advance
  rw [andThen_ite]
  exact if_congr Iff.rfl rfl rfl

/-- A command reads neither the image nor the other outputs. -/
theorem exec_withUnread (i : Instr) (s : State) :
    exec i (s.withUnread m out ev s.log) = andThen (exec i s) fun t => .next (t.withUnread m out ev t.log) := by
  cases i with
  | nop x => exact s.advance_withUnread m out ev
  | setChannel x => exact (s.setCurChannel x).advance_withUnread m out ev
  | setVoice x =>
    simp only [exec, execSetVoice, andThen_ite]
    exact if_congr Iff.rfl ((s.setCurVoice (loByte x)).advance_withUnread m out ev)
      ((s.raise .invalidVoiceIndex).advance_withUnread m out ev)
  | play x =>
    simp only [exec, execPlay, andThen_ite]
    exact if_congr Iff.rfl ((s.raise .invalidVoiceIndex).advance_withUnread m out ev)
      (if_congr Iff.rfl ((s.raise .invalidChannel).advance_withUnread m out ev)
        ((s.setNotes (s.notes.set s.curChannel.toNat (s.newNote x))).advance_withUnread m out ev))
  | wait x =>
    simp only [exec, execWait, andThen_ite]
    exact if_congr Iff.rfl ((s.setDue (s.now + x.setWidth 32)).advance_withUnread m out ev) rfl
  | unknown opcode x => exact (s.raise .unknownOpcode).advance_withUnread m out ev

/-- The loop goes the same way: it exits at the same test, or fetches the same command. -/
theorem State.AgreesOnReads.pcdLoop_eq {s : State} (h : s.AgreesOnReads m) (k : Nat) :
    pcdLoop k (s.withUnread m out ev s.log) = andThen (pcdLoop k s) fun t => .next (t.withUnread m out ev t.log) := by
  by_cases he : s.pc = s.commandCount
  · rw [pcdLoop_end he, pcdLoop_end (s := s.withUnread m out ev s.log) he]; rfl
  · by_cases hg : s.now.toNat < s.due.toNat
    · rw [pcdLoop_closed he hg, pcdLoop_closed (s := s.withUnread m out ev s.log) he hg]; rfl
    · have hg := Nat.not_lt.1 hg
      cases k with
      | zero => rw [pcdLoop_cap he hg, pcdLoop_cap (s := s.withUnread m out ev s.log) he hg]; rfl
      | succ k =>
        rw [pcdLoop_dispatch he hg, pcdLoop_dispatch (s := s.withUnread m out ev s.log) he hg, State.withUnread_pc, h.fetch_eq,
          andThen_assoc]
        refine andThen_congr fun i _ => ?_
        rw [exec_withUnread, andThen_assoc, andThen_assoc]
        exact andThen_congr fun t ht => (h.of_program (State.program_eq_of_atRest (exec_atRest ht))).pcdLoop_eq k

theorem State.AgreesOnReads.sequence_eq (h : s.AgreesOnReads m) :
    (s.withUnread m out ev s.log).sequence = andThen s.sequence fun t => .next (t.withUnread m out ev t.log) := by
  unfold State.sequence
  rw [andThen_ite]
  exact if_congr Iff.rfl (h.pcdLoop_eq _) rfl

/-! ### The operations -/

/-- The time base reads and writes registers only (R141). -/
theorem State.timeBase_withUnread (s : State) (tick : U32) :
    (s.withUnread m out ev lg).timeBase tick = andThen (s.timeBase tick) fun t => .next (t.withUnread m out ev lg) := by
  unfold State.timeBase
  simp only [andThen_ite]
  exact if_congr Iff.rfl (if_congr Iff.rfl rfl rfl) (if_congr Iff.rfl rfl rfl)

/-- An effective update empties the log before its loop and replaces the other outputs after it (R136). -/
theorem State.AgreesOnReads.effectiveUpdate_eq (h : s.AgreesOnReads m) (tick : U32) :
    (s.withUnread m out ev lg).effectiveUpdate tick = andThen (s.effectiveUpdate tick) fun t => .next { t with image := m } := by
  simp only [State.effectiveUpdate, State.timeBase_withUnread, andThen_assoc, andThen_next]
  refine andThen_congr fun s1 h1 => ?_
  have h1 : (s1.setLog []).AgreesOnReads m := h.of_program (State.timeBase_program h1 :)
  rw [State.setLog_withUnread, h1.sequence_eq, andThen_assoc]
  refine andThen_congr fun s2 h2 => ?_
  have h2 : s2.AgreesOnReads m := h1.of_program (State.program_eq_of_atRest (State.sequence_atRest h2))
  rw [andThen_next, h2.envPass_eq, andThen_assoc]
  rfl

/-- An operation that keeps the program does the same with other outputs and with another image that has the bytes read; that
image stays. -/
theorem State.AgreesOnReads.hostOp_eq (h : s.AgreesOnReads m) {op : HostOp} (hk : op.keepsProgram = true) :
    hostOp op (s.withUnread m out ev lg) = andThen (hostOp op s) fun t => .next { t with image := m } := by
  cases op with
  | construct offset buffer => cases hk
  | load buffer => cases hk
  | start =>
    simp only [hostOp, State.start, andThen_ite]
    exact if_congr Iff.rfl rfl rfl
  | pause =>
    simp only [hostOp, State.pause, andThen_ite]
    exact if_congr Iff.rfl rfl rfl
  | stop =>
    simp only [hostOp, State.stop, andThen_ite, andThen_assoc, h.noteOffAll_eq]
    exact if_congr Iff.rfl rfl rfl
  | update tick =>
    simp only [hostOp, State.update, andThen_ite]
    exact if_congr Iff.rfl (if_congr Iff.rfl rfl (State.AgreesOnReads.effectiveUpdate_eq (s := s.setLastTick tick) (lg := lg) h tick)) rfl
  | isRunning => rfl
  | isPaused => rfl

/-- Settles O57: the machine with the other image is `State.withUnread` of the machine with its own outputs. -/
theorem unreadBytesChangeNothing : Obligations.UnreadBytesChangeNothing := by
  intro s op rest m hin hk hm
  have hagree : State.AgreesOnReads { s with inbox := rest } m := hm
  rw [step_cons hin, step_cons (s := { s with image := m }) hin]
  exact hagree.hostOp_eq (out := s.result) (ev := s.events) (lg := s.log) hk

/-- Settles O56: an operation that keeps the program is followed through `State.withUnread`, with the machine's own image;
`construct` and `load` overwrite every output. -/
theorem outputsAreNeverReadBack : Obligations.OutputsAreNeverReadBack := by
  intro s op rest out ev lg hin
  rw [step_cons hin, step_cons (s := { s with result := out, events := ev, log := lg }) hin]
  cases hk : op.keepsProgram with
  | true =>
    have hagree := State.agreesOnReads_image { s with inbox := rest }
    have himage : ∀ t, hostOp op { s with inbox := rest } = .next t → { t with image := s.image } = t := fun t ht => by
      obtain ⟨-, -, -, -, -, -, himage, -⟩ := State.program_eq_iff.1 (hostOp_program hk ht)
      rw [← himage]
    calc hostOp op { s with result := out, events := ev, log := lg, inbox := rest }
      _ = andThen (hostOp op { s with inbox := rest }) fun t => .next { t with image := s.image } :=
        hagree.hostOp_eq (out := out) (ev := ev) (lg := lg) hk
      _ = andThen (hostOp op { s with inbox := rest }) .next := andThen_congr fun t ht => congrArg _ (himage t ht)
      _ = hostOp op { s with inbox := rest } := andThen_next_right _
  | false =>
    cases op with
    | construct offset buffer => rfl
    | load buffer => rfl
    | _ => cases hk

end Sys2Proof.Machine
end

section
/-! The image (20_memory.md): what a read of it answers (R47, R49), and the round trip of a laid-out image through `load` (R41 to
R46). -/

namespace Sys2Proof.Machine

variable {s : State}

/-! ### Single reads -/

/-- A read of one byte stops where there is none (R49). -/
theorem memRead8_of_none {m : Memory} {a : Nat} (h : m.read a = none) : memRead8 m a = .refused .imageOutOfRange :=
  orRefuse_eq_refused.2 ⟨h, rfl⟩

/-- Settles O7: the two laws of the reads, and the number two bytes stand for. -/
theorem memReadIsLittleEndian : Obligations.MemReadIsLittleEndian := by
  intro m a b0 b1 h0 h1
  exact ⟨memRead8_eq_next.2 h0, le16 b0 b1, memRead16_eq_next.2 ⟨b0, b1, h0, h1, rfl⟩, toNat_le16 b0 b1⟩

/-- Settles O8: a read of two bytes stops at the first that is missing, a read through an index at its own range check. -/
theorem outOfRangeAccessIsRefused : Obligations.OutOfRangeAccessIsRefused := by
  refine ⟨fun m a h => ⟨memRead8_of_none h, ?_⟩, fun m a b h h' => ?_, fun s i h => ?_, fun s v h => ⟨?_, ?_⟩⟩
  · rw [memRead16, memRead8_of_none h, andThen_refused]
  · rw [memRead16, memRead8_eq_next.2 h, andThen_next, memRead8_of_none h', andThen_refused]
  · exact if_neg (Nat.not_lt.2 h)
  · exact if_neg (Nat.not_lt.2 h)
  · exact if_neg (Nat.not_lt.2 h)

/-! ### Records, back to back -/

/-- Offsets from the end of the first list are offsets of the second. -/
theorem getElem?_append_length_add {α : Type} (l r : List α) (k : Nat) : (l ++ r)[l.length + k]? = r[k]? := by
  rw [List.getElem?_append_right (Nat.le_add_right _ _), Nat.add_sub_cancel_left]

/-- Record `k` of a table of `count` records of `n` bytes ends inside the table. -/
theorem record_lt {n count k j : Nat} (hk : k < count) (hj : j < n) : n * k + j < count * n := by
  calc n * k + j < n * k + n := Nat.add_lt_add_left hj _
    _ = n * (k + 1) := (Nat.mul_succ n k).symm
    _ ≤ n * count := Nat.mul_le_mul_left n hk
    _ = count * n := Nat.mul_comm n count

section Records

variable {α : Type} {f : α → List Byte} {n : Nat}

theorem length_records (hf : ∀ a, (f a).length = n) (l : List α) : (records f l).length = l.length * n := by
  induction l with
  | nil => simp [records]
  | cons a l ih => rw [records, List.length_append, hf, ih, List.length_cons, Nat.succ_mul, Nat.add_comm]

/-- Record `k` of a table begins at offset `n * k` (R42). -/
theorem getElem?_records (hf : ∀ a, (f a).length = n) {l : List α} {k : Nat} {a : α} (hk : l[k]? = some a) {j : Nat}
    (hj : j < n) : (records f l)[n * k + j]? = (f a)[j]? := by
  induction l generalizing k with
  | nil => simp at hk
  | cons b l ih =>
    cases k with
    | zero =>
      obtain rfl : b = a := by simpa using hk
      rw [records, Nat.mul_zero, Nat.zero_add, List.getElem?_append_left (by rwa [hf])]
    | succ k =>
      have hnext : n * (k + 1) + j - n = n * k + j := by rw [Nat.mul_succ]; omega
      rw [records, List.getElem?_append_right (by rw [hf, Nat.mul_succ]; omega), hf, hnext]
      exact ih (by simpa using hk)

end Records

theorem length_encodeVoice (lay : Layout) (v : Voice) : (encodeVoice lay v).length = voiceBytes lay := by
  cases lay <;> rfl

theorem length_encode (lay : Layout) (i : Instr) : (encode lay i).length = cmdBytes lay := by
  cases lay <;> rfl

/-- The 16-bit fields of a voice, each with its name (R25). -/
def Voice.words (v : Voice) : List (VoiceField × U16) :=
  [(.volume, v.volume), (.attackMs, v.attackMs), (.decayMs, v.decayMs), (.sustainLevel, v.sustainLevel),
    (.sustainMs, v.sustainMs), (.releaseMs, v.releaseMs), (.pulseWidth, v.pulseWidth)]

/-- Each 16-bit field of a voice lies at its offset in R43's table, the less significant byte first. -/
theorem getElem?_encodeVoice_word (lay : Layout) (v : Voice) {e : VoiceField × U16} (he : e ∈ v.words) :
    (encodeVoice lay v)[voiceFieldOffset lay e.1]? = some (loByte e.2) ∧
      (encodeVoice lay v)[voiceFieldOffset lay e.1 + 1]? = some (hiByte e.2) := by
  revert e
  simp only [Voice.words, List.forall_mem_cons]
  cases lay <;>
    exact ⟨⟨rfl, rfl⟩, ⟨rfl, rfl⟩, ⟨rfl, rfl⟩, ⟨rfl, rfl⟩, ⟨rfl, rfl⟩, ⟨rfl, rfl⟩, ⟨rfl, rfl⟩, by simp⟩

/-- Every field of a voice ends inside the record, `waveforms` with a byte to spare (R43). -/
theorem voiceFieldOffset_lt (lay : Layout) (f : VoiceField) : voiceFieldOffset lay f + 1 < voiceBytes lay := by
  cases lay <;> cases f <;> decide

/-- An opcode that names no command stands for itself (R64). -/
theorem instrOf_of_reserved {opcode : Byte} (h : opcodeMax ≤ opcode.toNat) (x : U16) : instrOf opcode x = .unknown opcode x := by
  have hne : ∀ n < opcodeMax, opcode.toNat ≠ n := fun n hn => by omega
  unfold instrOf
  rw [if_neg (hne _ (by decide)), if_neg (hne _ (by decide)), if_neg (hne _ (by decide)), if_neg (hne _ (by decide)),
    if_neg (hne _ (by decide))]

/-- A well-formed command is the one its own opcode and operand stand for (R69). -/
theorem instrOf_opcodeOf_operandOf {i : Instr} (h : i.wf = true) : instrOf (opcodeOf i) (operandOf i) = i := by
  cases i with
  | unknown opcode x => exact instrOf_of_reserved (of_decide_eq_true h) x
  | _ => rfl

/-! ### A laid-out image -/

section Image

variable {lay : Layout} {version : Byte} {voices : List Voice} {commands : List Instr}

theorem length_imageHead (count : Nat) : (imageHead lay version voices count).length = commandBase lay voices.length := by
  simp only [imageHead, List.length_append, length_records (length_encodeVoice lay)]
  rfl

theorem length_buildImage :
    (buildImage lay version voices commands).length = imageEnd lay voices.length commands.length := by
  rw [buildImage, List.length_append, length_imageHead, length_records (length_encode lay), imageEnd]

/-- The header, then the voice table, then the rest (R41, R42). -/
theorem buildImage_eq : buildImage lay version voices commands =
    (magic ++ [version, BitVec.ofNat 8 voices.length]) ++ (records (encodeVoice lay) voices ++
      (bytes16 (BitVec.ofNat 16 commands.length) ++ records (encode lay) commands)) := by
  simp only [buildImage, imageHead, List.append_assoc]

theorem getElem?_buildImage_voice {k : Nat} {v : Voice} (hk : voices[k]? = some v) {j : Nat} (hj : j < voiceBytes lay) :
    (buildImage lay version voices commands)[voiceBase + voiceBytes lay * k + j]? = (encodeVoice lay v)[j]? := by
  have hrec := getElem?_records (length_encodeVoice lay) hk hj
  have hin : voiceBytes lay * k + j < (records (encodeVoice lay) voices).length := by
    rw [length_records (length_encodeVoice lay)]
    exact record_lt (List.getElem?_eq_some_iff.1 hk).1 hj
  have hbase : voiceBase = (magic ++ [version, BitVec.ofNat 8 voices.length]).length := rfl
  rw [buildImage_eq, Nat.add_assoc, hbase, getElem?_append_length_add, List.getElem?_append_left hin, hrec]

theorem getElem?_buildImage_count :
    (buildImage lay version voices commands)[countOffset lay voices.length]? =
        some (loByte (BitVec.ofNat 16 commands.length)) ∧
      (buildImage lay version voices commands)[countOffset lay voices.length + 1]? =
        some (hiByte (BitVec.ofNat 16 commands.length)) := by
  have hbase : countOffset lay voices.length =
      (magic ++ [version, BitVec.ofNat 8 voices.length] ++ records (encodeVoice lay) voices).length := by
    rw [List.length_append, length_records (length_encodeVoice lay)]
    rfl
  rw [buildImage_eq, ← List.append_assoc, hbase, getElem?_append_length_add]
  exact ⟨getElem?_append_length_add _ _ 0, rfl⟩

theorem getElem?_buildImage_command {k : Nat} {i : Instr} (hk : commands[k]? = some i) {j : Nat} (hj : j < cmdBytes lay) :
    (buildImage lay version voices commands)[commandBase lay voices.length + cmdBytes lay * k + j]? = (encode lay i)[j]? := by
  rw [buildImage, Nat.add_assoc, ← length_imageHead (version := version) commands.length, getElem?_append_length_add,
    getElem?_records (length_encode lay) hk hj]

theorem bufferVoices_buildImage (hv : voices.length ≤ 255) :
    bufferVoices (buildImage lay version voices commands) = voices.length :=
  (BitVec.toNat_ofNat _ _).trans (Nat.mod_eq_of_lt (Nat.lt_succ_of_le hv))

theorem bufferCommands_buildImage (hv : voices.length ≤ 255) (hc : commands.length ≤ 65535) :
    bufferCommands lay (buildImage lay version voices commands) = commands.length := by
  obtain ⟨hlo, hhi⟩ := getElem?_buildImage_count (lay := lay) (version := version) (voices := voices) (commands := commands)
  have hcount : BitVec.ofNat 16 (bufferCommands lay (buildImage lay version voices commands)) =
      BitVec.ofNat 16 commands.length := by
    rw [ofNat_bufferCommands, bufferVoices_buildImage hv, List.getD_eq_getElem?_getD, List.getD_eq_getElem?_getD, hlo, hhi,
      Option.getD_some, Option.getD_some, le16_loByte_hiByte]
  rw [← toNat_bufferCommands, hcount, BitVec.toNat_ofNat]
  exact Nat.mod_eq_of_lt (Nat.lt_succ_of_le hc)

/-- A laid-out image passes the checks of R44. -/
theorem loadCheck_buildImage (hv : voices.length ≤ 255) (hc : commands.length ≤ 65535) :
    loadCheck lay (buildImage lay version voices commands) = .ok := by
  refine loadCheck_eq_ok.2 ⟨rfl, ?_⟩
  rw [bufferVoices_buildImage hv, bufferCommands_buildImage hv hc, length_buildImage]

end Image

/-! ### A machine that holds a laid-out image -/

/-- The image is laid out from these voices and commands, and the counts of the header are theirs. -/
structure State.HoldsProgram (s : State) (version : Byte) (voices : List Voice) (commands : List Instr) : Prop where
  image : s.image = Memory.ofBytes (buildImage s.params.layout version voices commands)
  voices_le : voices.length ≤ 255
  commands_le : commands.length ≤ 65535
  voiceCount : s.voiceCount.toNat = voices.length
  commandCount : s.commandCount.toNat = commands.length

section Holds

variable {version : Byte} {voices : List Voice} {commands : List Instr}

theorem State.withProgram_holds (s : State) (hv : voices.length ≤ 255) (hc : commands.length ≤ 65535) :
    (s.withProgram (buildImage s.params.layout version voices commands)).HoldsProgram version voices commands where
  image := rfl
  voices_le := hv
  commands_le := hc
  voiceCount := by rw [State.withProgram_voiceCount, toNat_bufferVoices, bufferVoices_buildImage hv]
  commandCount := by rw [State.withProgram_commandCount, toNat_bufferCommands, bufferCommands_buildImage hv hc]

/-- An image laid out for this machine is accepted by `load` (R44, R132). -/
theorem State.load_buildImage (hv : voices.length ≤ 255) (hc : commands.length ≤ 65535)
    (hver : s.params.supportedVersion = none) :
    s.load (buildImage s.params.layout version voices commands) =
      .next ((s.withProgram (buildImage s.params.layout version voices commands)).reply (some (.code .ok))) := by
  have hacc : s.versionRefused (buildImage s.params.layout version voices commands) = false := by
    rw [State.versionRefused, hver]
  rw [State.load, loadCheck_buildImage hv hc, hacc]
  rfl

section Voices

variable {k : Nat} {v : Voice} (h : s.HoldsProgram version voices commands) (hk : voices[k]? = some v)
include h hk

/-- A voice of the list has a legal index, which fits its byte. -/
theorem State.HoldsProgram.voice_index :
    (BitVec.ofNat 8 k).toNat = k ∧ (BitVec.ofNat 8 k).toNat < s.voiceCount.toNat := by
  have hlt := (List.getElem?_eq_some_iff.1 hk).1
  have hle := h.voices_le
  rw [h.voiceCount, BitVec.toNat_ofNat]
  omega

theorem State.HoldsProgram.voiceField {e : VoiceField × U16} (he : e ∈ v.words) :
    s.voiceField (BitVec.ofNat 8 k) e.1 = .next e.2 := by
  obtain ⟨hlo, hhi⟩ := getElem?_encodeVoice_word s.params.layout v he
  have hin := voiceFieldOffset_lt s.params.layout e.1
  refine memRead16_eq_next.2 ⟨_, _, ?_, ?_, (le16_loByte_hiByte _).symm⟩
  · rw [h.image, Memory.read_ofBytes, State.voiceOffset, (h.voice_index hk).1, getElem?_buildImage_voice hk (by omega), hlo]
  · rw [h.image, Memory.read_ofBytes, State.voiceOffset, (h.voice_index hk).1, Nat.add_assoc,
      getElem?_buildImage_voice hk hin, hhi]

/-- The fields of a voice by name, as the reads of a whole voice use them. -/
theorem State.HoldsProgram.voiceField_words :
    s.voiceField (BitVec.ofNat 8 k) .volume = .next v.volume ∧
    s.voiceField (BitVec.ofNat 8 k) .attackMs = .next v.attackMs ∧
    s.voiceField (BitVec.ofNat 8 k) .decayMs = .next v.decayMs ∧
    s.voiceField (BitVec.ofNat 8 k) .sustainLevel = .next v.sustainLevel ∧
    s.voiceField (BitVec.ofNat 8 k) .sustainMs = .next v.sustainMs ∧
    s.voiceField (BitVec.ofNat 8 k) .releaseMs = .next v.releaseMs ∧
    s.voiceField (BitVec.ofNat 8 k) .pulseWidth = .next v.pulseWidth := by
  have hwords : ∀ e ∈ v.words, s.voiceField (BitVec.ofNat 8 k) e.1 = .next e.2 := fun e he => h.voiceField hk he
  simpa [Voice.words] using hwords

theorem State.HoldsProgram.waveforms :
    memRead8 s.image (s.voiceOffset (BitVec.ofNat 8 k).toNat .waveforms) = .next v.waveforms := by
  have hlt := Nat.lt_of_succ_lt (voiceFieldOffset_lt s.params.layout .waveforms)
  rw [memRead8_eq_next, h.image, Memory.read_ofBytes, State.voiceOffset, (h.voice_index hk).1, getElem?_buildImage_voice hk hlt]
  cases s.params.layout <;> rfl

theorem State.HoldsProgram.voiceAt : s.voiceAt (BitVec.ofNat 8 k) = .next v := by
  obtain ⟨hvol, ha, hd, hl, hm, hr, hpw⟩ := h.voiceField_words hk
  rw [State.voiceAt, if_pos (h.voice_index hk).2, h.waveforms hk, hvol, ha, hd, hl, hm, hr, hpw]
  rfl

theorem State.HoldsProgram.envParams : s.envParams (BitVec.ofNat 8 k) = .next
    ⟨v.volume, v.attackMs, v.decayMs, susAmp s.params.susAmp v.sustainLevel v.volume, v.sustainMs, v.releaseMs⟩ := by
  obtain ⟨hvol, ha, hd, hl, hm, hr, -⟩ := h.voiceField_words hk
  exact State.envParams_eq_next.2 ⟨(h.voice_index hk).2, v.sustainLevel, hvol, ha, hd, hl, hm, hr, rfl⟩

end Voices

/-- The operand ends inside its record (R46). -/
theorem operandOffset_lt (lay : Layout) : operandOffset lay + 1 < cmdBytes lay := by
  cases lay <;> decide

/-- The opcode and the operand of a record lie where R46 puts them. -/
theorem getElem?_encode (lay : Layout) (i : Instr) :
    (encode lay i)[0]? = some (opcodeOf i) ∧ (encode lay i)[operandOffset lay]? = some (loByte (operandOf i)) ∧
      (encode lay i)[operandOffset lay + 1]? = some (hiByte (operandOf i)) := by
  cases lay <;> exact ⟨rfl, rfl, rfl⟩

theorem State.HoldsProgram.fetch (h : s.HoldsProgram version voices commands) {k : Nat} {i : Instr}
    (hk : commands[k]? = some i) (hwf : i.wf = true) : s.fetch (BitVec.ofNat 16 k) = .next i := by
  have hlt := (List.getElem?_eq_some_iff.1 hk).1
  have hindex : (BitVec.ofNat 16 k).toNat = k := by
    have hle := h.commands_le
    rw [BitVec.toNat_ofNat]
    omega
  have hread : ∀ j < cmdBytes s.params.layout, s.image.read (s.commandOffset k + j) = (encode s.params.layout i)[j]? :=
    fun j hj => by
      rw [h.image, Memory.read_ofBytes, State.commandOffset, h.voiceCount, getElem?_buildImage_command hk hj]
  have hin := operandOffset_lt s.params.layout
  obtain ⟨hop, hlo, hhi⟩ := getElem?_encode s.params.layout i
  refine State.fetch_eq_next.2 ⟨by rw [hindex, h.commandCount]; exact hlt, opcodeOf i, operandOf i, ?_, ?_,
    (instrOf_opcodeOf_operandOf hwf).symm⟩
  · rw [hindex]
    exact (hread 0 (by omega)).trans hop
  · rw [hindex]
    exact memRead16_eq_next.2 ⟨_, _, (hread _ (by omega)).trans hlo, (hread _ hin).trans hhi, (le16_loByte_hiByte _).symm⟩

end Holds

/-- Settles O9: `load` accepts the image, and what it leaves holds the program, of which every read answers what was written. -/
theorem laidOutImageReadsBack : Obligations.LaidOutImageReadsBack := by
  intro s version voices commands hv hc hwf hver
  have h := State.withProgram_holds (version := version) s hv hc
  have h : ((s.withProgram (buildImage s.params.layout version voices commands)).reply (some (.code .ok))).HoldsProgram
      version voices commands := { h with }
  refine ⟨_, State.load_buildImage hv hc hver, rfl, rfl, h.voiceCount, h.commandCount, fun k v hk => ?_, fun k i hk => ?_⟩
  · refine ⟨h.voiceAt hk, _, rfl, susAmp_le _ _ _, fun hdef => ?_, h.envParams hk⟩
    rw [hdef, susAmp_default]
  · exact h.fetch hk (hwf i (List.mem_of_getElem? hk))

end Sys2Proof.Machine
end

section
/-! What stops a step (R49, R140, R157, R161). From a state that meets the invariant every read through an index, every envelope,
every command and every part of `update` answers; what is left is the host's duty on ticks and the version a load may be refused. -/

namespace Sys2Proof.Machine

variable {s : State}

/-! ### Reads of the image -/

theorem State.Inv.loaded_of_voice (h : s.Inv) {k : Nat} (hk : k < s.voiceCount.toNat) : s.loaded = true := by
  by_contra hl
  obtain ⟨-, -, hvoices, -⟩ := h.unloaded (by simpa using hl)
  simp [hvoices] at hk

theorem State.Inv.loaded_of_command (h : s.Inv) {k : Nat} (hk : k < s.commandCount.toNat) : s.loaded = true := by
  by_contra hl
  obtain ⟨-, -, -, hcount, -⟩ := h.unloaded (by simpa using hl)
  simp [hcount] at hk

/-- Below its length the image has a byte at every offset (R44). -/
theorem State.Inv.read_total (h : s.Inv) {a : Nat} (ha : a < s.image.length) : ∃ b, s.image.read a = some b := by
  rw [h.image_contiguous, Memory.read_ofBytes]
  exact ⟨_, List.getElem?_eq_getElem (by simpa using ha)⟩

theorem State.Inv.memRead16_total (h : s.Inv) {a : Nat} (ha : a + 1 < s.image.length) :
    ∃ x, memRead16 s.image a = .next x := by
  obtain ⟨lo, hlo⟩ := h.read_total (Nat.lt_of_succ_lt ha)
  obtain ⟨hi, hhi⟩ := h.read_total ha
  exact ⟨_, memRead16_eq_next.2 ⟨lo, hi, hlo, hhi, rfl⟩⟩

/-- The command records lie inside the image (R42, R49). -/
theorem State.Inv.commandOffset_lt (h : s.Inv) {k j : Nat} (hk : k < s.commandCount.toNat) (hj : j < cmdBytes s.params.layout) :
    s.commandOffset k + j < s.image.length := by
  have hlong := h.image_long (h.loaded_of_command hk)
  have hrec := record_lt hk hj
  unfold imageEnd at hlong
  unfold State.commandOffset
  omega

/-- The voice records lie inside the image (R42, R49). -/
theorem State.Inv.voiceOffset_lt (h : s.Inv) {k : Nat} (hk : k < s.voiceCount.toNat) (f : VoiceField) :
    s.voiceOffset k f + 1 < s.image.length := by
  have hlong := h.image_long (h.loaded_of_voice hk)
  have hrec := record_lt hk (voiceFieldOffset_lt s.params.layout f)
  unfold imageEnd commandBase countOffset at hlong
  unfold State.voiceOffset voiceBase
  omega

/-- A fetch below `command_count` answers (R80). -/
theorem State.Inv.fetch_total (h : s.Inv) {i : U16} (hi : i.toNat < s.commandCount.toNat) : ∃ j, s.fetch i = .next j := by
  have hoperand : s.commandOffset i.toNat + operandOffset s.params.layout + 1 < s.image.length :=
    h.commandOffset_lt hi (operandOffset_lt s.params.layout)
  obtain ⟨opcode, hop⟩ := h.read_total (a := s.commandOffset i.toNat) (by omega)
  obtain ⟨operand, hx⟩ := h.memRead16_total hoperand
  exact ⟨_, State.fetch_eq_next.2 ⟨hi, opcode, operand, hop, hx, rfl⟩⟩

/-- The envelope fields of an existing voice answer (R102). -/
theorem State.Inv.envParams_total (h : s.Inv) {v : Byte} (hv : v.toNat < s.voiceCount.toNat) : ∃ p, s.envParams v = .next p := by
  have hfield : ∀ f, ∃ x, s.voiceField v f = .next x := fun f => h.memRead16_total (h.voiceOffset_lt hv f)
  obtain ⟨volume, hvol⟩ := hfield .volume
  obtain ⟨attack, ha⟩ := hfield .attackMs
  obtain ⟨decay, hd⟩ := hfield .decayMs
  obtain ⟨level, hl⟩ := hfield .sustainLevel
  obtain ⟨hold, hm⟩ := hfield .sustainMs
  obtain ⟨release, hr⟩ := hfield .releaseMs
  exact ⟨⟨volume, attack, decay, susAmp s.params.susAmp level volume, hold, release⟩,
    State.envParams_eq_next.2 ⟨hv, level, hvol, ha, hd, hl, hm, hr, rfl⟩⟩

/-! ### The notes

A legal slot is enough: its voice exists and its times are not after `now`. The rest of the run may be in any state, so these ask
for the invariant of the machine at rest. -/

/-- The envelope answers from the note's start, or its note-off, on (R104). -/
theorem env_total (p : EnvParams) {r : Note} {et : U32} (hst : r.start.toNat ≤ et.toNat)
    (hoff : ∀ off ∈ r.off, off.toNat ≤ et.toNat) : ∃ pa, env p r et = .next pa := by
  cases hr : r.off with
  | none => exact ⟨_, (env_of_sounding hr).2 ⟨hst, rfl⟩⟩
  | some off => exact ⟨_, (env_of_released hr).2 ⟨hoff off hr, rfl⟩⟩

/-- A relation that every entry of a list enters matches the list with another. -/
theorem exists_forall₂ {α β : Type} {R : α → β → Prop} {l : List α} (hR : ∀ a ∈ l, ∃ b, R a b) :
    ∃ l', List.Forall₂ R l l' := by
  induction l with
  | nil => exact ⟨[], .nil⟩
  | cons a l ih =>
    obtain ⟨b, hb⟩ := hR a List.mem_cons_self
    obtain ⟨l', hl'⟩ := ih fun c hc => hR c (List.mem_cons_of_mem _ hc)
    exact ⟨b :: l', .cons hb hl'⟩

section Slots

variable (h : s.atRest.Inv)
include h

theorem State.env_total_of_legal {slot : Nat × Note} (hl : s.slotLegal slot) :
    ∃ p pa, s.envParams slot.2.voice = .next p ∧ env p slot.2 s.now = .next pa := by
  obtain ⟨-, hv, hst, hoff, -⟩ := hl
  obtain ⟨p, hp⟩ := h.envParams_total hv
  obtain ⟨pa, hpa⟩ := env_total p hst fun off ho => (hoff off ho).2
  exact ⟨p, pa, hp, hpa⟩

theorem State.noteEnv_total {slot : Nat × Note} (hl : s.slotLegal slot) : ∃ pa, s.noteEnv slot.2 s.now = .next pa := by
  obtain ⟨p, pa, hp, hpa⟩ := State.env_total_of_legal h hl
  exact ⟨pa, State.noteEnv_eq_next.2 ⟨p, hp, hpa⟩⟩

/-- A note-off answers: an accepted one, a late one and a second one (R113). -/
theorem State.noteOff_total {slot : Nat × Note} (hl : s.slotLegal slot) : ∃ r, s.noteOff slot.2 = .next r := by
  cases hoff : slot.2.off with
  | some off => exact ⟨slot.2, by rw [State.noteOff, hoff]⟩
  | none =>
    obtain ⟨p, pa, hp, hpa⟩ := State.env_total_of_legal h hl
    rw [State.noteOff, hoff]
    simp only [hp, hpa, andThen_next]
    split
    · exact ⟨_, rfl⟩
    · exact ⟨_, rfl⟩

variable {l : NoteTable} (hl : ∀ slot ∈ l, s.slotLegal slot)
include hl

theorem State.noteOffAll_total : ∃ l', s.noteOffAll l = .next l' := by
  have hslot : ∀ c ∈ l, ∃ c' : Nat × Note, c'.1 = c.1 ∧ s.noteOff c.2 = .next c'.2 := fun c hc => by
    obtain ⟨r, hr⟩ := State.noteOff_total h (hl c hc)
    exact ⟨(c.1, r), rfl, hr⟩
  obtain ⟨l', hl'⟩ := exists_forall₂ hslot
  exact ⟨l', State.noteOffAll_eq_next.2 hl'⟩

theorem State.envNotes_total : ∃ out, s.envNotes s.now l = .next out := by
  obtain ⟨pas, hpas⟩ := exists_forall₂ fun c hc => State.noteEnv_total h (hl c hc)
  exact ⟨(_, _), State.envNotes_eq_next.2 ⟨pas, hpas, rfl, rfl⟩⟩

end Slots

/-! ### The loop -/

theorem State.advance_total (h : s.pc.toNat + 1 < 65536) : ∃ t, s.advance = .next t :=
  ⟨_, State.advance_eq_next.2 ⟨h, rfl⟩⟩

/-- Every command completes where `pc + 1` and `now + x` fit (R88, R18). -/
theorem exec_total (hpc : s.pc.toNat + 1 < 65536) (hnow : s.now.toNat < tickLimit) (i : Instr) : ∃ t, exec i s = .next t := by
  cases i with
  | nop x => exact State.advance_total hpc
  | setChannel x => exact State.advance_total hpc
  | setVoice x =>
    simp only [exec, execSetVoice]
    split
    · exact State.advance_total hpc
    · exact State.advance_total hpc
  | play x =>
    simp only [exec, execPlay]
    split_ifs
    · exact State.advance_total hpc
    · exact State.advance_total hpc
    · exact State.advance_total hpc
  | wait x =>
    have hlimit : tickLimit = 4294901760 := rfl
    have hx := x.isLt
    have hfits : s.now.toNat + x.toNat < 4294967296 := by omega
    simp only [exec, execWait, if_pos hfits]
    exact State.advance_total hpc
  | unknown opcode x => exact State.advance_total hpc

/-- The loop answers where every command it reaches is fetched, completes, and keeps what that needs (R76). -/
theorem pcdLoop_total {P : State → Prop}
    (hstep : ∀ s, P s → s.pc ≠ s.commandCount → ∃ i t, s.fetch s.pc = .next i ∧ exec i s = .next t ∧ P t)
    (k : Nat) (hs : P s) : ∃ t, pcdLoop k s = .next t := by
  induction k generalizing s with
  | zero =>
    by_cases he : s.pc = s.commandCount
    · exact ⟨_, pcdLoop_end he 0⟩
    · rcases Nat.lt_or_ge s.now.toNat s.due.toNat with hg | hg
      · exact ⟨_, pcdLoop_closed he hg 0⟩
      · exact ⟨_, pcdLoop_cap he hg⟩
  | succ k ih =>
    by_cases he : s.pc = s.commandCount
    · exact ⟨_, pcdLoop_end he _⟩
    · rcases Nat.lt_or_ge s.now.toNat s.due.toNat with hg | hg
      · exact ⟨_, pcdLoop_closed he hg _⟩
      · obtain ⟨i, u, hi, hu, hP⟩ := hstep s hs he
        obtain ⟨t, ht⟩ := ih hP
        exact ⟨t, by rw [pcdLoop_dispatch he hg, hi, andThen_next, hu, andThen_next, ht]⟩

/-- Within an update of a Running machine the command at `pc` is fetched and completes. -/
theorem State.MidUpdate.command_total (h : s.MidUpdate) (hrun : s.running = true) (hpc : s.pc ≠ s.commandCount) :
    ∃ i t, s.fetch s.pc = .next i ∧ exec i s = .next t ∧ t.MidUpdate ∧ t.running = true := by
  have hlt : s.pc.toNat < s.commandCount.toNat :=
    Nat.lt_of_le_of_ne h.pc_le fun he => hpc (BitVec.eq_of_toNat_eq he)
  have hnow : s.now.toNat < tickLimit := (Nat.le_of_add_left_le h.rest.clock).trans_lt h.rest.tick_range
  obtain ⟨i, hi⟩ := h.rest.fetch_total (i := s.pc) hlt
  obtain ⟨t, ht⟩ := exec_total (by have := s.commandCount.isLt; omega) hnow i
  obtain ⟨hnext, u, hu, rfl⟩ := exec_eq_next ht
  exact ⟨i, _, hi, ht, h.command hrun hpc hnext hu, hu.running_eq.trans hrun⟩

theorem State.MidUpdate.sequence_total (h : s.MidUpdate) : ∃ t, s.sequence = .next t := by
  unfold State.sequence
  split
  · rename_i hrun
    exact pcdLoop_total (P := fun u => u.MidUpdate ∧ u.running = true)
      (fun u ⟨hu, hr⟩ hpc => hu.command_total hr hpc) _ ⟨h, hrun⟩
  · exact ⟨s, rfl⟩

/-! ### The operations -/

/-- The clock gives an engine time at or after `now` (R141). -/
theorem State.timeBase_total {tick : U32} (h : s.skew.toNat + s.now.toNat ≤ tick.toNat) : ∃ t, s.timeBase tick = .next t := by
  cases hr : s.resync with
  | true => exact ⟨_, State.timeBase_eq_next.2 (.inl ⟨hr, by omega, rfl⟩)⟩
  | false => exact ⟨_, State.timeBase_eq_next.2 (.inr ⟨hr, h, rfl⟩)⟩

theorem State.MidUpdate.effectiveUpdate_total (h : s.MidUpdate) : ∃ t, s.effectiveUpdate s.lastTick = .next t := by
  have hclock : s.skew.toNat + s.now.toNat ≤ s.lastTick.toNat := h.rest.clock
  obtain ⟨s1, h1⟩ := State.timeBase_total hclock
  have hmid : State.MidUpdate { s1 with log := [] } := { h.timeBase h1 with }
  obtain ⟨s2, h2⟩ := hmid.sequence_total
  obtain ⟨hseq, -⟩ := hmid.sequence h2
  obtain ⟨out, hout⟩ := State.envNotes_total hseq.rest hseq.notes_legal
  exact ⟨_, State.effectiveUpdate_eq_next.2 ⟨s1, s2, _, h1, h2, State.envPass_eq_next.2 ⟨out, hout, rfl⟩, rfl⟩⟩

/-- An update at an admissible tick answers (R136, R140). -/
theorem State.Inv.update_total (h : s.Inv) {tick : U32} (hadm : s.tickAdmissible tick = true) :
    ∃ t, s.update tick = .next t := by
  rw [State.update, if_pos hadm]
  cases hp : s.paused with
  | true => exact ⟨_, rfl⟩
  | false => exact ((h.with_tick hadm).midUpdate hp).effectiveUpdate_total

theorem State.start_total : ∃ t, s.start = .next t := by
  unfold State.start
  split
  · exact ⟨_, rfl⟩
  · exact ⟨_, rfl⟩

theorem State.pause_total : ∃ t, s.pause = .next t := by
  unfold State.pause
  split
  · exact ⟨_, rfl⟩
  · exact ⟨_, rfl⟩

theorem State.Inv.stop_total (h : s.Inv) : ∃ t, s.stop = .next t := by
  obtain ⟨notes, hn⟩ := State.noteOffAll_total h.atRest h.notes_legal
  unfold State.stop
  split
  · exact ⟨_, by rw [hn, andThen_next]⟩
  · exact ⟨_, rfl⟩

/-! ### What stops an operation -/

/-- What answers is not refused. -/
theorem not_refused_of_total {α : Type} {o : Res α} (h : ∃ a, o = .next a) (r : Refusal) : o ≠ .refused r := by
  obtain ⟨a, rfl⟩ := h
  simp

theorem State.Inv.update_refused (h : s.Inv) {tick : U32} {r : Refusal} (hr : s.update tick = .refused r) :
    r = .tickDuty ∧ s.tickAdmissible tick = false := by
  cases hadm : s.tickAdmissible tick with
  | true => exact absurd hr (not_refused_of_total (h.update_total hadm) r)
  | false =>
    rw [State.update, hadm] at hr
    exact ⟨(Host.Outcome.refused.inj hr).symm, rfl⟩

/-- A load stops for the version alone; a failed check is an answer (R45, R132). -/
theorem State.load_refused {buf : List Byte} {r : Refusal} (hr : s.load buf = .refused r) :
    r = .unsupportedVersion ∧ s.params.supportedVersion ≠ none := by
  unfold State.load at hr
  split at hr
  · split at hr
    · rename_i hver
      refine ⟨(Host.Outcome.refused.inj hr).symm, fun hnone => ?_⟩
      simp [State.versionRefused, hnone] at hver
    · cases hr
  · cases hr

theorem State.construct_refused {offset : U16} {buffer : Option (List Byte)} {r : Refusal}
    (hr : s.construct offset buffer = .refused r) : r = .unsupportedVersion ∧ s.params.supportedVersion ≠ none := by
  cases buffer with
  | none => cases hr
  | some buf =>
    rcases andThen_eq_refused.1 hr with hload | ⟨_, -, hr⟩
    · exact (State.load_refused hload :)
    · cases hr

/-- All that stops a host operation. -/
theorem hostOp_refused (h : s.Inv) {op : HostOp} {r : Refusal} (hr : hostOp op s = .refused r) :
    (r = .tickDuty ∧ ∃ tick, op = .update tick ∧ s.tickAdmissible tick = false) ∨
    (r = .unsupportedVersion ∧ s.params.supportedVersion ≠ none) := by
  cases op with
  | construct offset buffer => exact .inr (State.construct_refused hr)
  | load buffer => exact .inr (State.load_refused hr)
  | start => exact absurd hr (not_refused_of_total State.start_total r)
  | pause => exact absurd hr (not_refused_of_total State.pause_total r)
  | stop => exact absurd hr (not_refused_of_total h.stop_total r)
  | update tick =>
    obtain ⟨rfl, hadm⟩ := h.update_refused hr
    exact .inl ⟨rfl, tick, rfl, hadm⟩
  | isRunning => cases hr
  | isPaused => cases hr

/-- Settles O53: a step is the next host operation, and the operations to come play no part in what stops it. -/
theorem onlyTheHostCausesARefusal : Obligations.OnlyTheHostCausesARefusal := by
  intro s r h hr
  cases hin : s.inbox with
  | nil =>
    rw [step_idle hin] at hr
    cases hr
  | cons op rest =>
    rw [step_cons hin] at hr
    rcases hostOp_refused (h.with_inbox rest) hr with ⟨rfl, tick, rfl, hadm⟩ | hver
    · exact .inl ⟨rfl, tick, rest, rfl, hadm⟩
    · exact .inr hver

/-- Settles O52: the two causes of a refusal are what the host's duty excludes. -/
theorem dutifulHostIsNeverRefused : Obligations.DutifulHostIsNeverRefused := by
  rintro s h ⟨hver, hduty⟩
  rcases res_cases (step s) with ht | ⟨r, hr⟩
  · exact ht
  · rcases onlyTheHostCausesARefusal s r h hr with ⟨-, tick, rest, hin, hadm⟩ | ⟨-, hset⟩
    · simp [hduty tick rest hin] at hadm
    · exact absurd hver hset

end Sys2Proof.Machine
end

section
/-! Decode and encode (30_encoding.md). `decode_eq_ok` says once which bytes decode to which command, in both directions; the
round trips of R69 are its two halves. -/

namespace Sys2Proof.Machine

/-! ### The opcode byte -/

/-- The rows of the opcode table: five opcodes name a command and the others are reserved (R63, R64). -/
theorem opcode_named_or_reserved (opcode : Byte) :
    opcode = 0 ∨ opcode = 1 ∨ opcode = 2 ∨ opcode = 3 ∨ opcode = 4 ∨ opcodeMax ≤ opcode.toNat := by
  simp only [opcodeMax]
  bv_omega

/-- Whatever the opcode byte, what it stands for is a command, of that opcode and that operand (R64, R69). -/
theorem instrOf_wf_fields (opcode : Byte) (x : U16) :
    (instrOf opcode x).wf = true ∧ opcodeOf (instrOf opcode x) = opcode ∧ operandOf (instrOf opcode x) = x := by
  rcases opcode_named_or_reserved opcode with rfl | rfl | rfl | rfl | rfl | h
  case inr.inr.inr.inr.inr =>
    rw [instrOf_of_reserved h]
    exact ⟨decide_eq_true h, rfl, rfl⟩
  all_goals exact ⟨rfl, rfl, rfl⟩

@[simp] theorem wf_instrOf (opcode : Byte) (x : U16) : (instrOf opcode x).wf = true := (instrOf_wf_fields opcode x).1

@[simp] theorem opcodeOf_instrOf (opcode : Byte) (x : U16) : opcodeOf (instrOf opcode x) = opcode :=
  (instrOf_wf_fields opcode x).2.1

@[simp] theorem operandOf_instrOf (opcode : Byte) (x : U16) : operandOf (instrOf opcode x) = x :=
  (instrOf_wf_fields opcode x).2.2

/-! ### The bytes of a record -/

/-- The record of a command with a given pad byte (R46). `PACKED` has no pad byte. -/
def paddedRecord (pad : Byte) (i : Instr) : Layout → List Byte
  | .packed => [opcodeOf i, loByte (operandOf i), hiByte (operandOf i)]
  | .aligned => [opcodeOf i, pad, loByte (operandOf i), hiByte (operandOf i)]

theorem encode_eq_paddedRecord (lay : Layout) (i : Instr) : encode lay i = paddedRecord 0 i lay := by
  cases lay <;> rfl

/-- The bytes of a record decode to what its opcode and operand stand for, whatever the pad byte. -/
theorem decode_paddedRecord (lay : Layout) (pad : Byte) (i : Instr) (rest : List Byte) :
    decode lay (paddedRecord pad i lay ++ rest) = .ok (instrOf (opcodeOf i) (operandOf i), rest) := by
  cases lay <;> simp [paddedRecord, decode]

/-- All that decodes: the record of a well-formed command, with any pad byte and any bytes after it (R46, R60, R69). -/
theorem decode_eq_ok {lay : Layout} {bs rest : List Byte} {i : Instr} :
    decode lay bs = .ok (i, rest) ↔ i.wf = true ∧ ∃ pad, bs = paddedRecord pad i lay ++ rest := by
  constructor
  · intro h
    unfold decode at h
    split at h
    · cases h
      exact ⟨wf_instrOf _ _, 0, by simp [paddedRecord]⟩
    · rename_i opcode pad b1 b2 after
      cases h
      exact ⟨wf_instrOf _ _, pad, by simp [paddedRecord]⟩
    · cases h
  · rintro ⟨hwf, pad, rfl⟩
    rw [decode_paddedRecord, instrOf_opcodeOf_operandOf hwf]

/-- The length of the bytes alone decides whether they decode (R64, R65). -/
theorem decode_of_length (lay : Layout) (bs : List Byte) :
    (cmdBytes lay ≤ bs.length ∧ ∃ i, decode lay bs = .ok (i, bs.drop (cmdBytes lay))) ∨
      (bs.length < cmdBytes lay ∧ decode lay bs = .error .shortRecord) :=
  match lay, bs with
  | .packed, _ :: _ :: _ :: _ => .inl ⟨by simp [cmdBytes], _, rfl⟩
  | .packed, [] | .packed, [_] | .packed, [_, _] => .inr ⟨by simp [cmdBytes], rfl⟩
  | .aligned, _ :: _ :: _ :: _ :: _ => .inl ⟨by simp [cmdBytes], _, rfl⟩
  | .aligned, [] | .aligned, [_] | .aligned, [_, _] | .aligned, [_, _, _] => .inr ⟨by simp [cmdBytes], rfl⟩

/-- A word of the opcode table decodes to what its two fields stand for (R60). -/
theorem decodeTableWord_eq (nbits w : Nat) :
    decodeTableWord nbits w = some (instrOf (tableOpcode nbits w) (tableOperand nbits w)) := by
  simp only [decodeTableWord, tableBytes, encodeFields, decode, le16_loByte_hiByte]

/-! ### The statements -/

/-- Settles O1: `encode` is the record whose pad byte is 0, and every record of a well-formed command decodes to it. -/
theorem decodeInvertsEncode : Obligations.DecodeInvertsEncode := by
  intro lay i rest hwf
  rw [encode_eq_paddedRecord]
  exact decode_eq_ok.2 ⟨hwf, 0, rfl⟩

/-- Settles O2: only records of well-formed commands decode; a `PACKED` one has no pad byte and so is `encode` of its command. -/
theorem encodeInvertsDecode : Obligations.EncodeInvertsDecode := by
  constructor
  · intro bs rest i h
    obtain ⟨hwf, pad, rfl⟩ := decode_eq_ok.1 h
    exact ⟨hwf, rfl⟩
  · intro bs rest i h
    obtain ⟨hwf, pad, rfl⟩ := decode_eq_ok.1 h
    exact ⟨hwf, pad, rfl⟩

/-- Settles O3: a named opcode is a value at which `instrOf` computes, a reserved one stands for itself. -/
theorem opcodeByteSelectsTheCommand : Obligations.OpcodeByteSelectsTheCommand := by
  intro opcode x
  refine ⟨?_, ?_, ?_, ?_, ?_, fun h => instrOf_of_reserved h x, opcodeOf_instrOf opcode x, operandOf_instrOf opcode x⟩
  all_goals
    rintro rfl
    rfl

/-- Settles O4: by `decodeTableWord_eq` each word is split into its opcode and operand, and the table is looked up there. -/
theorem specWordsDecode : Obligations.SpecWordsDecode := by
  unfold Obligations.SpecWordsDecode
  simp only [decodeTableWord_eq]
  decide

/-- Settles O5: the two ranges of the length exclude each other. -/
theorem everyFullRecordDecodes : Obligations.EveryFullRecordDecodes := by
  intro lay bs
  rcases decode_of_length lay bs with ⟨hlen, hok⟩ | ⟨hlen, herr⟩
  · exact ⟨fun _ => hok, fun hshort => absurd hlen (Nat.not_le.2 hshort)⟩
  · exact ⟨fun hfull => absurd hfull (Nat.not_le.2 hlen), fun _ => herr⟩

end Sys2Proof.Machine
end

section
/-! The PCD loop at one command, and what a whole pass does (40_sequencer.md section 1). -/

namespace Sys2Proof.Machine

variable {s t : State} {i : Instr}

/-! ### Where a command is dispatched (R88): `pc < command_count` -/

theorem pc_succ_lt_of_command (h : s.pc.toNat < s.commandCount.toNat) : s.pc.toNat + 1 < 65536 :=
  Nat.lt_of_le_of_lt h s.commandCount.isLt

theorem pc_ne_of_command (h : s.pc.toNat < s.commandCount.toNat) : s.pc ≠ s.commandCount :=
  fun he => Nat.ne_of_lt h (congrArg BitVec.toNat he)

/-- A command moves `pc` on by one, and neither stops the run nor changes the length of the program. -/
theorem exec_advances (h : exec i s = .next t) :
    t.pc.toNat = s.pc.toNat + 1 ∧ t.running = s.running ∧ t.commandCount = s.commandCount := by
  obtain ⟨hframe, hpc, -⟩ := commandsTouchOnlyTheirOwn i s t h
  exact ⟨hpc, (congrArg State.running hframe :), (congrArg State.commandCount hframe :)⟩

/-- Settles O29: `pc + 1` fits where a command is dispatched, and so does `now + x`. -/
theorem everyCommandCompletes : Obligations.EveryCommandCompletes := by
  intro i s hlt hnow
  obtain ⟨t, ht⟩ := exec_total (pc_succ_lt_of_command hlt) hnow i
  obtain ⟨hpc, -, hcount⟩ := exec_advances ht
  exact ⟨t, ht, hpc, by rw [hpc, hcount]; exact hlt⟩

/-! ### One command of the loop -/

/-- A command that is due takes one of the cap, and the loop goes on after it (R76, R79). -/
theorem pcdLoop_command (hdue : s.commandDue) (hi : s.fetch s.pc = .next i) (ht : exec i s = .next t) (k : Nat) :
    pcdLoop (k + 1) s = pcdLoop k t := by
  obtain ⟨hlt, hgate⟩ := hdue
  rw [pcdLoop_dispatch (pc_ne_of_command hlt) hgate, hi, andThen_next, ht, andThen_next]

/-- After the last command the song ends in the same pass, whatever is left of the cap (R77). -/
theorem pcdLoop_last_command (hdue : s.commandDue) (hlast : s.pc.toNat + 1 = s.commandCount.toNat)
    (hi : s.fetch s.pc = .next i) (ht : exec i s = .next t) (k : Nat) : pcdLoop (k + 1) s = .next t.endOfSong := by
  obtain ⟨hpc, -, hcount⟩ := exec_advances ht
  have hend : t.pc = t.commandCount := BitVec.eq_of_toNat_eq (by rw [hpc, hcount, hlast])
  rw [pcdLoop_command hdue hi ht, pcdLoop_end hend]

/-- The ways a pass can go: the song ends, or the loop exits short of the end with everything unchanged, or it runs a command and
goes on (R76). -/
theorem pcdLoop_cases {k : Nat} (h : pcdLoop k s = .next t) :
    (s.pc = s.commandCount ∧ t = s.endOfSong) ∨ (s.pc ≠ s.commandCount ∧ t = s) ∨
      ∃ k' i u, k = k' + 1 ∧ s.pc.toNat < s.commandCount.toNat ∧ exec i s = .next u ∧ pcdLoop k' u = .next t := by
  by_cases he : s.pc = s.commandCount
  · rw [pcdLoop_end he] at h
    exact .inl ⟨he, (Host.Outcome.next.inj h).symm⟩
  · rcases Nat.lt_or_ge s.now.toNat s.due.toNat with hgate | hgate
    · rw [pcdLoop_closed he hgate] at h
      exact .inr (.inl ⟨he, (Host.Outcome.next.inj h).symm⟩)
    · cases k with
      | zero =>
        rw [pcdLoop_cap he hgate] at h
        exact .inr (.inl ⟨he, (Host.Outcome.next.inj h).symm⟩)
      | succ k =>
        rw [pcdLoop_dispatch he hgate] at h
        obtain ⟨i, hi, h⟩ := andThen_eq_next.1 h
        obtain ⟨u, hu, h⟩ := andThen_eq_next.1 h
        obtain ⟨hlt, -⟩ := State.fetch_eq_next.1 hi
        exact .inr (.inr ⟨k, i, u, rfl, hlt, hu, h⟩)

/-- Settles O19, by induction over the cap: a command adds one to `pc` and takes one from the cap. -/
theorem loopAdvancesAtMostTheCap : Obligations.LoopAdvancesAtMostTheCap := by
  intro k
  induction k using Nat.strong_induction_on with
  | h k ih =>
    intro s t h
    rcases pcdLoop_cases h with ⟨he, rfl⟩ | ⟨hne, rfl⟩ | ⟨k', i, u, rfl, hlt, hu, hrest⟩
    · exact .inr ⟨rfl, rfl, rfl, by rw [he], by rw [he]; exact Nat.le_add_right _ _⟩
    · exact .inl ⟨rfl, Nat.le_refl _, Nat.le_add_right _ _, hne⟩
    · obtain ⟨hpc, hrun, hcount⟩ := exec_advances hu
      have hpass := ih k' (Nat.lt_succ_self k') u t hrest
      rw [hpc, hrun, hcount] at hpass
      rcases hpass with ⟨hrun, hge, hle, hne⟩ | ⟨hrun, hpc0, hdue0, -, hle⟩
      · exact .inl ⟨hrun, by omega, by omega, hne⟩
      · exact .inr ⟨hrun, hpc0, hdue0, Nat.le_of_lt hlt, by omega⟩

/-- Settles O16: the test at the end comes first, and the last command leaves `pc` there. -/
theorem endOfSongStops : Obligations.EndOfSongStops :=
  ⟨fun _ k he => pcdLoop_end he k, fun _ _ _ k hdue hlast hi ht => pcdLoop_last_command hdue hlast hi ht k⟩

/-- Settles O17: the gate is tested before the fetch, so it knows no opcode; which command writes `due` is in O28. -/
theorem timeGateHoldsEveryCommand : Obligations.TimeGateHoldsEveryCommand := by
  refine ⟨fun _ k hne hgate => pcdLoop_closed hne hgate k, fun _ _ _ k hdue hi ht => pcdLoop_command hdue hi ht k, ?_⟩
  intro s t i ht hi
  obtain ⟨-, -, -, -, hdue, -⟩ := commandsTouchOnlyTheirOwn i s t ht
  exact hdue hi

/-- Settles O18, clause by clause: a running machine starts the loop, a command takes one of the cap, none is left, and the end of
song is tested first. -/
theorem workCapBoundsTheLoop : Obligations.WorkCapBoundsTheLoop :=
  ⟨fun _ hrun => if_pos hrun, fun _ _ _ k hdue hi ht => pcdLoop_command hdue hi ht k,
    fun _ ⟨hlt, hgate⟩ => pcdLoop_cap (pc_ne_of_command hlt) hgate, fun _ he => pcdLoop_end he 0⟩

/-! ### An update that reaches no command -/

/-- The loop changes nothing where it is not entered (R75) or meets a closed gate (R78). -/
theorem State.sequence_of_no_command
    (h : s.running = false ∨ (s.pc ≠ s.commandCount ∧ s.now.toNat < s.due.toNat)) : s.sequence = .next s := by
  cases hrun : s.running with
  | false => exact if_neg (by simp [hrun])
  | true =>
    obtain ⟨hne, hgate⟩ := h.resolve_left (by simp [hrun])
    rw [State.sequence, if_pos hrun, pcdLoop_closed hne hgate]

/-- The time base writes the clock and nothing else (R141). -/
theorem State.timeBase_frame {tick : U32} (h : s.timeBase tick = .next t) :
    ∃ now skew resync, t = { s with now := now, skew := skew, resync := resync } := by
  rcases State.timeBase_eq_next.1 h with ⟨-, -, rfl⟩ | ⟨-, -, rfl⟩
  · exact ⟨s.now, _, _, rfl⟩
  · exact ⟨_, s.skew, s.resync, rfl⟩

/-- The ENV pass reports every note once (R119). -/
theorem State.length_events_of_envNotes {et : U32} {l : NoteTable} {out : List Event × NoteTable}
    (h : s.envNotes et l = .next out) : out.1.length = l.length := by
  obtain ⟨pas, hpas, hevents, -⟩ := State.envNotes_eq_next.1 h
  rw [hevents, List.length_zipWith, hpas.length_eq, Nat.min_self]

/-- Effective is the opposite of Paused (R14, R139). -/
theorem State.effective_eq_not_paused (s : State) : s.effective = !s.paused := by
  cases hrun : s.running with
  | true => simp [State.paused, State.effective, hrun]
  | false => simp [State.paused, State.effective, hrun, Nat.pos_iff_ne_zero]

theorem State.update_of_effective {tick : U32} (hadm : s.tickAdmissible tick = true) (heff : s.effective = true) :
    s.update tick = State.effectiveUpdate { s with lastTick := tick } tick := by
  have hp : ¬ s.paused = true := by simpa [State.effective_eq_not_paused] using heff
  rw [State.update, if_pos hadm, if_neg hp]
  rfl

/-- An effective update that reaches no command is its time base, then the ENV pass (R136). -/
theorem State.effectiveUpdate_of_no_command {s1 : State} {tick : U32} (h1 : s.timeBase tick = .next s1)
    (h : s.running = false ∨ (s1.pc ≠ s1.commandCount ∧ s1.now.toNat < s1.due.toNat)) :
    s.effectiveUpdate tick =
      andThen (State.envPass { s1 with log := [] }) fun t => .next { t with result := some (.bool true) } := by
  have hrun : s1.running = s.running := by
    obtain ⟨now, skew, resync, rfl⟩ := State.timeBase_frame h1
    rfl
  rw [State.effectiveUpdate, h1, andThen_next, State.sequence_of_no_command (s := s1.setLog []) (h.imp_left hrun.trans)]
  rfl

/-- R75: what an effective update of a machine that is not running leaves of the run, and how much it reports. -/
theorem State.effectiveUpdate_not_running {tick : U32} (hrun : s.running = false) (h : s.effectiveUpdate tick = .next t) :
    t.running = false ∧ t.pc = s.pc ∧ t.curChannel = s.curChannel ∧ t.curVoice = s.curVoice ∧ t.due = s.due ∧ t.log = [] ∧
      t.events.length = s.notes.length := by
  obtain ⟨s1, -, -, h1, -⟩ := State.effectiveUpdate_eq_next.1 h
  rw [State.effectiveUpdate_of_no_command h1 (.inl hrun)] at h
  obtain ⟨s3, h3, h⟩ := andThen_eq_next.1 h
  obtain rfl := Host.Outcome.next.inj h
  obtain ⟨out, hout, rfl⟩ := State.envPass_eq_next.1 h3
  obtain ⟨now, skew, resync, rfl⟩ := State.timeBase_frame h1
  exact ⟨hrun, rfl, rfl, rfl, rfl, rfl, State.length_events_of_envNotes hout⟩

/-- Settles O15: a Paused update writes the ghost alone, and an effective one has no command to run. -/
theorem notRunningDispatchesNothing : Obligations.NotRunningDispatchesNothing := by
  constructor
  · intro s t tick rest hin hrun ht
    rw [step_cons hin] at ht
    obtain ⟨-, ⟨hp, rfl⟩ | ⟨-, ht⟩⟩ := State.update_eq_next ht
    · have hp : s.paused = true := hp
      exact ⟨hrun, rfl, rfl, rfl, rfl, rfl, fun heff => by simp [State.effective_eq_not_paused, hp] at heff⟩
    · obtain ⟨hrun', hpc, hchan, hvoice, hdue, hlog, hevents⟩ :=
        State.effectiveUpdate_not_running (s := { s with inbox := rest, lastTick := tick }) hrun ht
      exact ⟨hrun', hpc, hchan, hvoice, hdue, hlog, fun _ => hevents⟩
  · intro s s1 tick rest hin hadm heff h1 hidle
    calc step s
      _ = State.update { s with inbox := rest } tick := step_cons hin
      _ = State.effectiveUpdate { s with inbox := rest, lastTick := tick } tick :=
        State.update_of_effective (s := { s with inbox := rest }) hadm heff
      _ = _ := State.effectiveUpdate_of_no_command h1 hidle

end Sys2Proof.Machine
end

section
/-! The six commands where they are dispatched (40_sequencer.md section 2): the exact next state of each. -/

namespace Sys2Proof.Machine

variable {s t : State}

/-- A record of either layout decodes to what its opcode byte stands for, with any pad byte (R46, R61). -/
theorem decode_of_opcode {opcode b1 b2 : Byte} {i : Instr} (h : instrOf opcode (le16 b1 b2) = i) (pad : Byte) (rest : List Byte) :
    decode .packed (opcode :: b1 :: b2 :: rest) = .ok (i, rest) ∧
      decode .aligned (opcode :: pad :: b1 :: b2 :: rest) = .ok (i, rest) := by
  subst h
  exact ⟨rfl, rfl⟩

/-- Where a command is dispatched `pc + 1` fits (R88). -/
theorem State.advance_of_command (h : s.pc.toNat < s.commandCount.toNat) : s.advance = .next { s with pc := s.pc + 1 } :=
  State.advance_eq_next.2 ⟨pc_succ_lt_of_command h, rfl⟩

/-- A command that is skipped logs the error with its own index and advances (R154). -/
theorem State.raise_advance_of_command (e : ErrorCode) (h : s.pc.toNat < s.commandCount.toNat) :
    (s.raise e).advance = .next { s with log := s.log ++ [⟨s.pc, e⟩], pc := s.pc + 1 } :=
  State.advance_of_command (s := s.raise e) h

/-! ### `NOP`, `SET_CHANNEL` and the unknown opcode -/

theorem exec_nop (x : U16) (h : s.pc.toNat < s.commandCount.toNat) : exec (.nop x) s = .next { s with pc := s.pc + 1 } :=
  State.advance_of_command h

/-- Settles O22: the command is the advance alone, and like every command it takes one of the cap. -/
theorem nopOnlyAdvances : Obligations.NopOnlyAdvances :=
  ⟨fun x _ h => exec_nop x h, fun _ _ pad rest => decode_of_opcode rfl pad rest,
    fun x _ k hdue hi => pcdLoop_command hdue hi (exec_nop x hdue.1) k⟩

theorem exec_setChannel (x : U16) (h : s.pc.toNat < s.commandCount.toNat) :
    exec (.setChannel x) s = .next { s with curChannel := x, pc := s.pc + 1 } :=
  State.advance_of_command (s := s.setCurChannel x) h

/-- Settles O23: no test stands before the write. -/
theorem setChannelSetsTheChannel : Obligations.SetChannelSetsTheChannel :=
  ⟨fun x _ h => exec_setChannel x h, fun _ _ pad rest => decode_of_opcode rfl pad rest⟩

theorem exec_unknown (opcode : Byte) (x : U16) (h : s.pc.toNat < s.commandCount.toNat) :
    exec (.unknown opcode x) s = .next { s with log := s.log ++ [⟨s.pc, .unknownOpcode⟩], pc := s.pc + 1 } :=
  State.raise_advance_of_command .unknownOpcode h

/-- Settles O27: a reserved opcode is a skipped command, and like every command it takes one of the cap. -/
theorem unknownOpcodeIsLoggedNop : Obligations.UnknownOpcodeIsLoggedNop :=
  ⟨fun opcode x _ h => exec_unknown opcode x h,
    fun _ _ _ pad rest hres => decode_of_opcode (instrOf_of_reserved hres _) pad rest,
    fun opcode x _ k hdue hi => pcdLoop_command hdue hi (exec_unknown opcode x hdue.1) k⟩

/-! ### `SET_VOICE` -/

theorem exec_setVoice_in_range {x : U16} (h : s.pc.toNat < s.commandCount.toNat) (hx : x.toNat < s.voiceCount.toNat) :
    exec (.setVoice x) s = .next { s with curVoice := loByte x, pc := s.pc + 1 } := by
  rw [exec, execSetVoice, if_pos (by simpa [State.voiceInRange] using hx)]
  exact State.advance_of_command (s := s.setCurVoice (loByte x)) h

theorem exec_setVoice_out_of_range {x : U16} (h : s.pc.toNat < s.commandCount.toNat) (hx : s.voiceCount.toNat ≤ x.toNat) :
    exec (.setVoice x) s = .next { s with log := s.log ++ [⟨s.pc, .invalidVoiceIndex⟩], pc := s.pc + 1 } := by
  rw [exec, execSetVoice, if_neg (by simpa [State.voiceInRange] using hx)]
  exact State.raise_advance_of_command .invalidVoiceIndex h

/-- Settles O24: the test is on all 16 bits, and an index below `voice_count` fits the byte it is stored in. -/
theorem setVoiceValidatesItsIndex : Obligations.SetVoiceValidatesItsIndex :=
  ⟨fun _ s h hx => ⟨exec_setVoice_in_range h hx, toNat_loByte_of_lt (hx.trans s.voiceCount.isLt)⟩,
    fun _ _ h hx => exec_setVoice_out_of_range h hx, fun _ _ pad rest => decode_of_opcode rfl pad rest⟩

/-! ### `PLAY` -/

theorem exec_play (x : U16) (h : s.pc.toNat < s.commandCount.toNat) (hv : s.curVoice.toNat < s.voiceCount.toNat)
    (hc : s.curChannel.toNat < s.params.nChannels) :
    exec (.play x) s = .next { s with notes := s.notes.set s.curChannel.toNat (s.newNote x), pc := s.pc + 1 } := by
  rw [exec, execPlay, if_neg (Nat.not_le.2 hv), if_neg (Nat.not_le.2 hc)]
  exact State.advance_of_command (s := s.setNotes (s.notes.set s.curChannel.toNat (s.newNote x))) h

theorem exec_play_no_voice (x : U16) (h : s.pc.toNat < s.commandCount.toNat) (hv : s.voiceCount.toNat ≤ s.curVoice.toNat) :
    exec (.play x) s = .next { s with log := s.log ++ [⟨s.pc, .invalidVoiceIndex⟩], pc := s.pc + 1 } := by
  rw [exec, execPlay, if_pos hv]
  exact State.raise_advance_of_command .invalidVoiceIndex h

theorem exec_play_no_slot (x : U16) (h : s.pc.toNat < s.commandCount.toNat) (hv : s.curVoice.toNat < s.voiceCount.toNat)
    (hc : s.params.nChannels ≤ s.curChannel.toNat) :
    exec (.play x) s = .next { s with log := s.log ++ [⟨s.pc, .invalidChannel⟩], pc := s.pc + 1 } := by
  rw [exec, execPlay, if_neg (Nat.not_le.2 hv), if_pos hc]
  exact State.raise_advance_of_command .invalidChannel h

/-- Settles O25: the new table is the old one with the current channel written. -/
theorem playCreatesTheNote : Obligations.PlayCreatesTheNote :=
  ⟨fun x _ h hv hc =>
      ⟨_, exec_play x h hv hc, NoteTable.get_set_same _ _ _, fun _ hne => NoteTable.get_set_other hne _ _⟩,
    fun x _ h hv => exec_play_no_voice x h hv, fun x _ h hv hc => exec_play_no_slot x h hv hc,
    fun _ _ pad rest => decode_of_opcode rfl pad rest⟩

/-! ### `WAIT` -/

/-- All a `WAIT` can do (R86). -/
theorem exec_wait_eq_next {x : U16} :
    exec (.wait x) s = .next t ↔ s.now.toNat + x.toNat < 4294967296 ∧ s.pc.toNat + 1 < 65536 ∧
      t = { s with due := s.now + x.setWidth 32, pc := s.pc + 1 } := by
  by_cases hfits : s.now.toNat + x.toNat < 4294967296
  · rw [exec, execWait, if_pos hfits, State.advance_eq_next]
    exact (and_iff_right hfits).symm
  · simp [exec, execWait, hfits]

/-- `et + x` does not wrap where `WAIT` completes (R18). -/
theorem toNat_wait_due {now : U32} {x : U16} (hfits : now.toNat + x.toNat < 4294967296) :
    (now + x.setWidth 32).toNat = now.toNat + x.toNat := by
  have hx := x.isLt
  rw [BitVec.toNat_add, BitVec.toNat_setWidth]
  omega

/-- With `x > 0` the loop exits at the command after the `WAIT`: its gate is closed in this update (R78, R86). -/
theorem pcdLoop_after_wait {x : U16} (ht : exec (.wait x) s = .next t) (hnotLast : s.pc.toNat + 1 ≠ s.commandCount.toNat)
    (hx : x ≠ 0) (k : Nat) : pcdLoop k t = .next t := by
  obtain ⟨hpc, -, hcount⟩ := exec_advances ht
  obtain ⟨hfits, -, ht⟩ := exec_wait_eq_next.1 ht
  have hne : t.pc ≠ t.commandCount := fun he => hnotLast (by rw [← hpc, he, hcount])
  have hpos : 0 < x.toNat := Nat.pos_of_ne_zero fun h0 => hx (BitVec.eq_of_toNat_eq h0)
  have hgate : t.now.toNat < t.due.toNat := by
    have hdue := toNat_wait_due hfits
    rw [ht]
    exact hdue ▸ Nat.lt_add_of_pos_right hpos
  exact pcdLoop_closed hne hgate k

/-- Settles O26: below `TICK_LIMIT` the sum fits; at the end of the program the gate is not asked, before it `x > 0` closes it, and
`x = 0` leaves `due` at `now`. -/
theorem waitSetsTheGate : Obligations.WaitSetsTheGate := by
  refine ⟨fun x s hlt hnow => ?_, fun x s t k hdue hi ht => ?_, fun _ _ pad rest => decode_of_opcode rfl pad rest⟩
  · have hlimit : tickLimit = 4294901760 := rfl
    have hx := x.isLt
    have hfits : s.now.toNat + x.toNat < 4294967296 := by omega
    exact ⟨_, toNat_wait_due hfits, exec_wait_eq_next.2 ⟨hfits, pc_succ_lt_of_command hlt, rfl⟩⟩
  · have hnext := pcdLoop_command hdue hi ht k
    refine ⟨fun hlast => pcdLoop_last_command hdue hlast hi ht k, fun hnotLast hx => ?_, fun hx => ⟨?_, hnext⟩⟩
    · rw [hnext, pcdLoop_after_wait ht hnotLast hx]
    · obtain ⟨-, -, rfl⟩ := exec_wait_eq_next.1 ht
      simp [hx]

end Sys2Proof.Machine
end

section
/-! The ramp `lerp` (R112) and the shape of the envelope (R105 to R115, R122, R123). The release of R109 is that of R114 from the
sustain amplitude, so what is said of one is said of both. -/

namespace Sys2Proof.Machine

/-! ### The ramp -/

section Ramp

variable {a b x x' len : Nat}

theorem lerp_rise (h : a ≤ b) (x len : Nat) : lerp a b x len = a + (b - a) * x / len := if_pos h

/-- Where the ends are equal both formulas of R112 give that value. -/
theorem lerp_fall (h : b ≤ a) (x len : Nat) : lerp a b x len = a - (a - b) * x / len := by
  rcases Nat.eq_or_lt_of_le h with rfl | hlt
  · simp [lerp]
  · exact if_neg (Nat.not_le.2 hlt)

@[simp] theorem lerp_zero (a b len : Nat) : lerp a b 0 len = a := by simp [lerp]

theorem lerp_self (a b : Nat) (h : 0 < len) : lerp a b len len = b := by
  rcases Nat.le_total a b with hab | hba
  · rw [lerp_rise hab, Nat.mul_div_cancel _ h, Nat.add_sub_cancel' hab]
  · rw [lerp_fall hba, Nat.mul_div_cancel _ h, Nat.sub_sub_self hba]

theorem lerp_mono (h : a ≤ b) (hx : x ≤ x') : lerp a b x len ≤ lerp a b x' len := by
  rw [lerp_rise h, lerp_rise h]
  exact Nat.add_le_add_left (Nat.div_le_div_right (Nat.mul_le_mul_left _ hx)) _

theorem lerp_anti (h : b ≤ a) (hx : x ≤ x') : lerp a b x' len ≤ lerp a b x len := by
  rw [lerp_fall h, lerp_fall h]
  exact Nat.sub_le_sub_left (Nat.div_le_div_right (Nat.mul_le_mul_left _ hx)) _

theorem start_le_lerp (h : a ≤ b) (x len : Nat) : a ≤ lerp a b x len := lerp_rise h x len ▸ Nat.le_add_right _ _

theorem end_le_lerp (h : b ≤ a) (hlen : 0 < len) (hx : x ≤ len) : b ≤ lerp a b x len :=
  (lerp_self a b hlen).ge.trans (lerp_anti h hx)

/-- The truncation never puts the ramp ahead of the exact line (R112). -/
theorem lerp_rise_lag (h : a ≤ b) (x len : Nat) : lerp a b x len * len ≤ a * len + (b - a) * x := by
  rw [lerp_rise h, Nat.add_mul]
  exact Nat.add_le_add_left (Nat.div_mul_le_self _ _) _

theorem lerp_fall_lag (h : b ≤ a) (x len : Nat) : a * len ≤ lerp a b x len * len + (a - b) * x := by
  have hdiv := Nat.div_mul_le_self ((a - b) * x) len
  rw [lerp_fall h, Nat.sub_mul]
  omega

/-- The product inside the ramp fits 32 bits (R112). -/
theorem ramp_product_lt (ha : a ≤ 65535) (hx : x ≤ 65535) (b : Nat) : (a - b) * x < 2 ^ 32 :=
  (Nat.mul_le_mul ((Nat.sub_le _ _).trans ha) hx).trans_lt (by decide)

end Ramp

/-- Settles O30: of the two formulas one rises and one falls, and each end, bound and lag is that of its own. -/
theorem lerpIsAnExactTruncatedLine : Obligations.LerpIsAnExactTruncatedLine := by
  intro a b x len hlen hx
  obtain ⟨hmin, hmax⟩ : min a b ≤ lerp a b x len ∧ lerp a b x len ≤ max a b := by
    rcases Nat.le_total a b with hab | hba
    · rw [Nat.min_eq_left hab, Nat.max_eq_right hab]
      exact ⟨start_le_lerp hab x len, lerp_le_end hab hx⟩
    · rw [Nat.min_eq_right hba, Nat.max_eq_left hba]
      exact ⟨end_le_lerp hba hlen hx, lerp_le_start hba x len⟩
  exact ⟨fun hab => lerp_rise hab x len, fun hba => lerp_fall hba.le x len, lerp_zero a b len, lerp_self a b hlen,
    hmin, hmax, fun _ hle _ => ⟨fun hab => lerp_mono hab hle, fun hba => lerp_anti hba hle⟩,
    fun hab => lerp_rise_lag hab x len, fun hba => lerp_fall_lag hba.le x len,
    fun ha hb hl => ⟨ramp_product_lt hb (hx.trans hl) a, ramp_product_lt ha (hx.trans hl) b⟩⟩

/-! ### The release -/

/-- The ramp of a release begins at its level, so it holds at the note-off itself too. -/
theorem envReleased_of_lt {z r : Nat} (h : z < r) (l : Nat) : envReleased l r z = (.release, l - l * z / r) := by
  have hramp : lerp l 0 z r = l - l * z / r := lerp_fall (Nat.zero_le l) z r
  rcases Nat.eq_zero_or_pos z with rfl | hz
  · simp
  · rw [envReleased_ramp hz h, hramp]

theorem envReleased_anti (l r : Nat) {z z' : Nat} (h : z ≤ z') : (envReleased l r z').2 ≤ (envReleased l r z).2 := by
  rcases Nat.eq_zero_or_pos z' with rfl | hz'
  · rw [Nat.le_zero.1 h]
  · rcases Nat.lt_or_ge z' r with hlt | hge
    · rw [envReleased_of_lt hlt, envReleased_of_lt (h.trans_lt hlt)]
      exact Nat.sub_le_sub_left (Nat.div_le_div_right (Nat.mul_le_mul_left _ h)) _
    · rw [envReleased_done hz' hge]
      exact Nat.zero_le _

/-! ### The sounding note -/

section Sounding

variable {p : EnvParams} {e e' : Nat}

/-- From `t3` on the note is released from its sustain amplitude (R109, R110, R114). -/
theorem envSounding_of_t3_lt (h : p.t3 < e) : envSounding p e = envReleased p.sustain.toNat p.release.toNat (e - p.t3) := by
  have ht4 := p.t4_eq
  rcases Nat.lt_or_ge e p.t4 with hlt | hge
  · rw [envSounding_release h hlt, envReleased_ramp (by omega) (by omega)]
    rfl
  · rw [envSounding_done h hge, envReleased_done (by omega) (by omega)]

theorem attackAmp_of_pos (h : 0 < p.attack.toNat) (e : Nat) : attackAmp p e = lerp 0 p.volume.toNat e p.attack.toNat :=
  if_neg h.ne'

theorem attackAmp_of_zero (h : p.attack.toNat = 0) (e : Nat) : attackAmp p e = p.volume.toNat := if_pos h

theorem attackAmp_end (p : EnvParams) : attackAmp p p.t1 = p.volume.toNat := by
  rcases Nat.eq_zero_or_pos p.attack.toNat with h0 | hpos
  · exact attackAmp_of_zero h0 _
  · exact (attackAmp_of_pos hpos _).trans (lerp_self _ _ hpos)

theorem attackAmp_mono (p : EnvParams) (h : e ≤ e') : attackAmp p e ≤ attackAmp p e' := by
  rcases Nat.eq_zero_or_pos p.attack.toNat with h0 | hpos
  · rw [attackAmp_of_zero h0, attackAmp_of_zero h0]
  · rw [attackAmp_of_pos hpos, attackAmp_of_pos hpos]
    exact lerp_mono (Nat.zero_le _) h

theorem envSounding_peak (p : EnvParams) : envSounding p p.t1 = (.attack, p.volume.toNat) := by
  rw [envSounding_attack (Nat.le_refl _), attackAmp_end]

/-- The decay ramp begins at the peak, so it holds at `t1` too. -/
theorem envSounding_peak_to_t2 (h : p.t1 ≤ e) (h' : e ≤ p.t2) : (envSounding p e).2 = decayAmp p e := by
  rcases Nat.eq_or_lt_of_le h with rfl | hlt
  · rw [envSounding_peak, decayAmp, Nat.sub_self, lerp_zero]
  · rw [envSounding_decay hlt h']

theorem sustain_le_envSounding (hS : p.sustain.toNat ≤ p.volume.toNat) (h : p.t1 ≤ e) (h' : e ≤ p.t3) :
    p.sustain.toNat ≤ (envSounding p e).2 := by
  have ht2 := p.t2_eq
  rcases Nat.eq_or_lt_of_le h with rfl | h1
  · rw [envSounding_peak]
    exact hS
  · rcases Nat.lt_or_ge p.t2 e with h2 | h2
    · rw [envSounding_sustain h2 h']
    · rw [envSounding_decay h1 h2]
      exact end_le_lerp hS (by omega) (by omega)

theorem envSounding_le_sustain (h : p.t2 < e) : (envSounding p e).2 ≤ p.sustain.toNat := by
  rcases Nat.lt_or_ge p.t3 e with h3 | h3
  · rw [envSounding_of_t3_lt h3]
    exact envReleased_le_level _ _ _
  · rw [envSounding_sustain h h3]

theorem envSounding_release_anti (h : p.t3 < e) (hle : e ≤ e') : (envSounding p e').2 ≤ (envSounding p e).2 := by
  rw [envSounding_of_t3_lt h, envSounding_of_t3_lt (h.trans_le hle)]
  exact envReleased_anti _ _ (Nat.sub_le_sub_right hle _)

/-- After the peak the amplitude falls: within the decay, down to the sustain amplitude and from there on (R122 (c)). -/
theorem envSounding_anti (hS : p.sustain.toNat ≤ p.volume.toNat) (h : p.t1 ≤ e) (hle : e ≤ e') :
    (envSounding p e').2 ≤ (envSounding p e).2 := by
  rcases Nat.lt_or_ge p.t2 e' with h2 | h2
  · rcases Nat.lt_or_ge p.t3 e with h3 | h3
    · exact envSounding_release_anti h3 hle
    · exact (envSounding_le_sustain h2).trans (sustain_le_envSounding hS h h3)
  · rw [envSounding_peak_to_t2 h (hle.trans h2), envSounding_peak_to_t2 (h.trans hle) h2]
    exact lerp_anti hS (Nat.sub_le_sub_right hle _)

/-- Four 16-bit times bound the longest note (R123). -/
theorem EnvParams.t4_le (p : EnvParams) : p.t4 ≤ 262140 := by
  have hattack := p.attack.isLt
  have hdecay := p.decay.isLt
  have hhold := p.hold.isLt
  have hrelease := p.release.isLt
  unfold EnvParams.t4
  omega

end Sounding

/-! ### The note -/

theorem env_eq_sounding {p : EnvParams} {r : Note} {et : U32} (hoff : r.off = none) (hst : r.start.toNat ≤ et.toNat) :
    env p r et = .next (envSounding p (et.toNat - r.start.toNat)) :=
  (env_of_sounding hoff).2 ⟨hst, rfl⟩

theorem env_eq_released {p : EnvParams} {r : Note} {off et : U32} (hoff : r.off = some off) (hle : off.toNat ≤ et.toNat) :
    env p r et = .next (envReleased r.relAmp.toNat p.release.toNat (et.toNat - off.toNat)) :=
  (env_of_released hoff).2 ⟨hle, rfl⟩

/-- Settles O31: a phase's row, with its ramp written out by the direction it takes. -/
theorem envelopeHasItsFivePhases : Obligations.EnvelopeHasItsFivePhases := by
  refine ⟨fun p r et hoff hst => env_eq_sounding hoff hst, fun p e => ⟨?_, ?_, ?_, ?_, ?_, ?_⟩⟩
  · intro he hA
    rw [envSounding_attack he, attackAmp_of_pos hA, lerp_rise (Nat.zero_le _), Nat.zero_add, Nat.sub_zero]
  · rintro rfl hA
    rw [envSounding_attack (Nat.zero_le _), attackAmp_of_zero hA]
  · intro h1 h2 hS
    rw [envSounding_decay h1 h2, decayAmp, lerp_fall hS]
    rfl
  · exact fun h2 h3 => envSounding_sustain h2 h3
  · intro (h3 : p.t3 < e) (h4 : e < p.t4)
    have hz : e - p.t3 < p.release.toNat := by have := p.t4_eq; omega
    rw [envSounding_of_t3_lt h3, envReleased_of_lt hz]
    rfl
  · exact fun h3 h4 => envSounding_done h3 h4

/-- Settles O32: the rows of R114 at the time since the note-off. -/
theorem envelopeAfterNoteOff : Obligations.EnvelopeAfterNoteOff := by
  intro p r off et hoff hle
  rw [env_eq_released hoff hle]
  refine ⟨?_, fun _ hz => by rw [envReleased_of_lt hz], fun hlt hz => by rw [envReleased_done (Nat.sub_pos_of_lt hlt) hz]⟩
  rintro rfl
  rw [Nat.sub_self, envReleased_zero]

/-- Settles O33: the attack ramp rises from zero to the peak, the decay and the release only fall. -/
theorem envelopeRisesThenFalls : Obligations.EnvelopeRisesThenFalls := by
  refine ⟨fun p hA => ?_, fun p => congrArg Prod.snd (envSounding_peak p), fun p e e' hle h1 => ?_,
    fun _ _ _ h3 hle => envSounding_release_anti h3 hle, fun l r _ _ hle => envReleased_anti l r hle,
    fun _ _ _ hS h1 hle => envSounding_anti hS h1 hle, fun _ e hS => envSounding_le_volume hS e, envReleased_le_level⟩
  · rw [envSounding_attack (Nat.zero_le _), attackAmp_of_pos hA, lerp_zero]
  · rw [envSounding_attack (hle.trans h1), envSounding_attack h1]
    exact attackAmp_mono p hle

/-- Settles O34: no sum wraps, since the times of the note are not after `et`, and the elapsed time stays. -/
theorem envelopeIsShiftInvariant : Obligations.EnvelopeIsShiftInvariant := by
  intro p r et d hfit hst hoff
  have hadd : ∀ a : U32, a.toNat ≤ et.toNat → (a + d).toNat = a.toNat + d.toNat := fun a ha =>
    BitVec.toNat_add_of_lt (by omega)
  have het := hadd et (Nat.le_refl _)
  cases hr : r.off with
  | none =>
    have hstart := hadd r.start hst
    rw [env_eq_sounding hr hst, env_eq_sounding rfl (by simp only [hstart, het]; omega)]
    simp only [hstart, het, Nat.add_sub_add_right]
  | some off =>
    have hle := hoff off hr
    have hoff' := hadd off hle
    rw [env_eq_released hr hle, env_eq_released rfl (by simp only [hoff', het]; omega)]
    simp only [hoff', het, Nat.add_sub_add_right]

/-- Settles O35: after `t3` only the last two rows of R105 are left, and 262140 ms, four 16-bit times, is after `t3`, the sum of
three. -/
theorem sustainAlwaysEnds : Obligations.SustainAlwaysEnds := by
  intro p e
  refine ⟨fun h3 => ?_, p.t4_le, fun h4 h3 => envSounding_done h3 h4, fun he => ?_⟩
  · rcases Nat.lt_or_ge e p.t4 with h4 | h4
    · exact .inl (by rw [envSounding_release h3 h4])
    · exact .inr (by rw [envSounding_done h3 h4])
  · have h3 : p.t3 < e := by
      have hattack := p.attack.isLt
      have hdecay := p.decay.isLt
      have hhold := p.hold.isLt
      unfold EnvParams.t3
      omega
    exact envSounding_done h3 (p.t4_le.trans he)

/-- Settles O6: both tables are read off. -/
theorem codesHaveTheSpecsNumbers : Obligations.CodesHaveTheSpecsNumbers := ⟨rfl, rfl⟩

end Sys2Proof.Machine
end

section
/-! The counter view of the envelope (R124; log entry 23). The phase register and its counter are a function of the time since
creation, or since the note-off; an advance moves that time on. -/

namespace Sys2Proof.Machine

variable {p : EnvParams} {e d z : Nat}

/-- The counter `z` after a release from the level `l` began. -/
def CounterNote.releasedAt (p : EnvParams) (l z : Nat) : CounterNote :=
  if z = 0 ∨ z < p.release.toNat then ⟨.release, p.release.toNat - z, l⟩ else ⟨.done, 0, l⟩

/-- The counter of a note without note-off at elapsed time `e`. -/
def CounterNote.soundingAt (p : EnvParams) (e : Nat) : CounterNote :=
  if e ≤ p.t1 then ⟨.attack, p.t1 - e, p.sustain.toNat⟩
  else if e ≤ p.t2 then ⟨.decay, p.t2 - e, p.sustain.toNat⟩
  else if e ≤ p.t3 then ⟨.sustain, p.t3 - e, p.sustain.toNat⟩
  else .releasedAt p p.sustain.toNat (e - p.t3)

namespace CounterNote

theorem releasedAt_ramp (h : z = 0 ∨ z < p.release.toNat) (l : Nat) :
    releasedAt p l z = ⟨.release, p.release.toNat - z, l⟩ := if_pos h

theorem releasedAt_done (h : 0 < z) (h' : p.release.toNat ≤ z) (l : Nat) : releasedAt p l z = ⟨.done, 0, l⟩ :=
  if_neg (by omega)

theorem soundingAt_attack (h : e ≤ p.t1) : soundingAt p e = ⟨.attack, p.t1 - e, p.sustain.toNat⟩ := if_pos h

theorem soundingAt_decay (h : p.t1 < e) (h' : e ≤ p.t2) : soundingAt p e = ⟨.decay, p.t2 - e, p.sustain.toNat⟩ := by
  rw [soundingAt, if_neg (Nat.not_le.2 h), if_pos h']

theorem soundingAt_sustain (h : p.t2 < e) (h' : e ≤ p.t3) : soundingAt p e = ⟨.sustain, p.t3 - e, p.sustain.toNat⟩ := by
  have h1 : ¬ e ≤ p.t1 := by have := p.t2_eq; omega
  rw [soundingAt, if_neg h1, if_neg (Nat.not_le.2 h), if_pos h']

theorem soundingAt_release (h : p.t3 < e) : soundingAt p e = releasedAt p p.sustain.toNat (e - p.t3) := by
  have h2 : ¬ e ≤ p.t2 := by have := p.t3_eq; omega
  have h1 : ¬ e ≤ p.t1 := by have := p.t2_eq; omega
  rw [soundingAt, if_neg h1, if_neg h2, if_neg (Nat.not_le.2 h)]

/-! ### One advance

First one equation per way a phase takes what is left of the advance: it keeps the phase, or spends the counter and moves on. -/

section Spend

variable {left : Nat} (p : EnvParams) (l fuel : Nat)

theorem spend_attack_stays (h : d ≤ left) : spend p (fuel + 1) ⟨.attack, left, l⟩ d = ⟨.attack, left - d, l⟩ :=
  if_neg (Nat.not_lt.2 h)

theorem spend_attack_moves (h : left < d) :
    spend p (fuel + 1) ⟨.attack, left, l⟩ d = spend p fuel ⟨.decay, p.decay.toNat, l⟩ (d - left) := if_pos h

theorem spend_decay_stays (h : d ≤ left) : spend p (fuel + 1) ⟨.decay, left, l⟩ d = ⟨.decay, left - d, l⟩ :=
  if_neg (Nat.not_lt.2 h)

theorem spend_decay_moves (h : left < d) :
    spend p (fuel + 1) ⟨.decay, left, l⟩ d = spend p fuel ⟨.sustain, p.hold.toNat, l⟩ (d - left) := if_pos h

theorem spend_sustain_stays (h : d ≤ left) : spend p (fuel + 1) ⟨.sustain, left, l⟩ d = ⟨.sustain, left - d, l⟩ :=
  if_neg (Nat.not_lt.2 h)

theorem spend_sustain_moves (h : left < d) :
    spend p (fuel + 1) ⟨.sustain, left, l⟩ d = spend p fuel ⟨.release, p.release.toNat, l⟩ (d - left) := if_pos h

theorem spend_release_stays (h : d < left) : spend p (fuel + 1) ⟨.release, left, l⟩ d = ⟨.release, left - d, l⟩ :=
  if_neg (Nat.not_le.2 h)

theorem spend_release_ends (h : left ≤ d) : spend p (fuel + 1) ⟨.release, left, l⟩ d = ⟨.done, 0, l⟩ := if_pos h

theorem spend_done : spend p (fuel + 1) ⟨.done, 0, l⟩ d = ⟨.done, 0, l⟩ := rfl

end Spend

/-! Then each phase from its opening instant on, with the phases after it. -/

theorem spend_release (hd : 0 < d) (hz : z ≤ p.release.toNat) (l fuel : Nat) :
    spend p (fuel + 1) ⟨.release, p.release.toNat - z, l⟩ d = releasedAt p l (z + d) := by
  rcases Nat.lt_or_ge (z + d) p.release.toNat with hlt | hge
  · rw [releasedAt_ramp (.inr hlt), spend_release_stays _ _ _ (by omega), Nat.sub_sub]
  · rw [releasedAt_done (Nat.add_pos_right z hd) hge, spend_release_ends _ _ _ (by omega)]

theorem spend_sustain (hd : 0 < d) (h2 : p.t2 ≤ e) (h3 : e ≤ p.t3) (fuel : Nat) :
    spend p (fuel + 2) ⟨.sustain, p.t3 - e, p.sustain.toNat⟩ d = soundingAt p (e + d) := by
  rcases Nat.lt_or_ge p.t3 (e + d) with hlt | hge
  · have hnext := spend_release (p := p) (z := 0) (d := d - (p.t3 - e)) (by omega) (Nat.zero_le _) p.sustain.toNat fuel
    rw [spend_sustain_moves _ _ _ (by omega), soundingAt_release hlt]
    rw [Nat.sub_zero] at hnext
    rw [hnext]
    congr 1
    omega
  · rw [soundingAt_sustain (by omega) hge, spend_sustain_stays _ _ _ (by omega), Nat.sub_sub]

theorem spend_decay (hd : 0 < d) (h1 : p.t1 ≤ e) (h2 : e ≤ p.t2) (fuel : Nat) :
    spend p (fuel + 3) ⟨.decay, p.t2 - e, p.sustain.toNat⟩ d = soundingAt p (e + d) := by
  rcases Nat.lt_or_ge p.t2 (e + d) with hlt | hge
  · have hhold : p.hold.toNat = p.t3 - p.t2 := (Nat.add_sub_cancel_left ..).symm
    rw [spend_decay_moves _ _ _ (by omega), hhold, spend_sustain (by omega) (Nat.le_refl _) (Nat.le_add_right ..)]
    congr 1
    omega
  · rw [soundingAt_decay (by omega) hge, spend_decay_stays _ _ _ (by omega), Nat.sub_sub]

theorem spend_attack (h1 : e ≤ p.t1) (fuel : Nat) :
    spend p (fuel + 4) ⟨.attack, p.t1 - e, p.sustain.toNat⟩ d = soundingAt p (e + d) := by
  rcases Nat.lt_or_ge p.t1 (e + d) with hlt | hge
  · have hdecay : p.decay.toNat = p.t2 - p.t1 := (Nat.add_sub_cancel_left ..).symm
    rw [spend_attack_moves _ _ _ (by omega), hdecay, spend_decay (by omega) (Nat.le_refl _) (Nat.le_add_right ..)]
    congr 1
    omega
  · rw [soundingAt_attack hge, spend_attack_stays _ _ _ (by omega), Nat.sub_sub]

theorem spend_releasedAt (hd : 0 < d) (l z fuel : Nat) : spend p (fuel + 1) (releasedAt p l z) d = releasedAt p l (z + d) := by
  by_cases hz : z = 0 ∨ z < p.release.toNat
  · rw [releasedAt_ramp hz, spend_release hd (by omega)]
  · rw [releasedAt_done (by omega) (by omega), releasedAt_done (by omega) (by omega), spend_done]

theorem advance_releasedAt (p : EnvParams) (l z d : Nat) : advance p (releasedAt p l z) d = releasedAt p l (z + d) := by
  rcases Nat.eq_zero_or_pos d with rfl | hd
  · exact if_pos rfl
  · rw [advance, if_neg hd.ne', spend_releasedAt hd]

/-- An advance from any elapsed time, phase by phase. -/
theorem advance_soundingAt (p : EnvParams) (e d : Nat) : advance p (soundingAt p e) d = soundingAt p (e + d) := by
  rcases Nat.eq_zero_or_pos d with rfl | hd
  · exact if_pos rfl
  · rw [advance, if_neg hd.ne']
    rcases Nat.lt_or_ge p.t3 e with h3 | h3
    · rw [soundingAt_release h3, spend_releasedAt hd, soundingAt_release (by omega), Nat.sub_add_comm h3.le]
    · rcases Nat.lt_or_ge p.t2 e with h2 | h2
      · rw [soundingAt_sustain h2 h3, spend_sustain hd h2.le h3]
      · rcases Nat.lt_or_ge p.t1 e with h1 | h1
        · rw [soundingAt_decay h1 h2, spend_decay hd h1.le h2]
        · rw [soundingAt_attack h1, spend_attack h1]

/-! ### Many advances -/

theorem foldl_advance_create (p : EnvParams) (ds : List Nat) : ds.foldl (advance p) (create p) = soundingAt p ds.sum := by
  have hcreate : create p = soundingAt p 0 := (soundingAt_attack (Nat.zero_le _)).symm
  rw [hcreate, List.foldl_hom (soundingAt p) (g₁ := (· + ·)) (advance_soundingAt p), List.sum_eq_foldl]

theorem foldl_advance_released (p : EnvParams) (l : Nat) (ds : List Nat) :
    ds.foldl (advance p) (released p l) = releasedAt p l ds.sum := by
  have hreleased : released p l = releasedAt p l 0 := (releasedAt_ramp (.inl rfl) l).symm
  rw [hreleased, List.foldl_hom (releasedAt p l) (g₁ := (· + ·)) (advance_releasedAt p l), List.sum_eq_foldl]

/-! ### What the counter shows -/

/-- The ramp is at what the counter has been lowered by; with `R = 0` it shows its origin (log entry 23). -/
theorem view_releasedAt (p : EnvParams) (l z : Nat) :
    ((releasedAt p l z).phase, (releasedAt p l z).amp p) = envReleased l p.release.toNat z := by
  rcases Nat.eq_zero_or_pos z with rfl | hz
  · rw [releasedAt_ramp (.inl rfl), envReleased_zero]
    simp [amp]
  · rcases Nat.lt_or_ge z p.release.toNat with hlt | hge
    · have hR : p.release.toNat ≠ 0 := by omega
      rw [releasedAt_ramp (.inr hlt), envReleased_ramp hz hlt]
      simp [amp, hR, Nat.sub_sub_self hlt.le]
    · rw [releasedAt_done hz hge, envReleased_done hz hge]
      rfl

theorem view_soundingAt (p : EnvParams) (e : Nat) :
    ((soundingAt p e).phase, (soundingAt p e).amp p) = envSounding p e := by
  have ht2 := p.t2_eq
  rcases Nat.lt_or_ge p.t3 e with h3 | h3
  · rw [soundingAt_release h3, envSounding_of_t3_lt h3, view_releasedAt]
  · rcases Nat.lt_or_ge p.t2 e with h2 | h2
    · rw [soundingAt_sustain h2 h3, envSounding_sustain h2 h3]
      rfl
    · rcases Nat.lt_or_ge p.t1 e with h1 | h1
      · have hx : p.decay.toNat - (p.t2 - e) = e - p.t1 := by omega
        rw [soundingAt_decay h1 h2, envSounding_decay h1 h2, decayAmp, ← hx]
        rfl
      · have hx : p.attack.toNat - (p.t1 - e) = e := Nat.sub_sub_self h1
        rw [soundingAt_attack h1, envSounding_attack h1]
        simp only [amp, attackAmp, hx]

end CounterNote

/-- Settles O36: advances add up, and at their sum the counter shows the row of R105, or of R114. -/
theorem counterViewIsTheEnvelope : Obligations.CounterViewIsTheEnvelope := by
  refine fun p ds => ⟨?_, fun l => ?_⟩
  · simp only [CounterNote.foldl_advance_create, CounterNote.view_soundingAt]
  · simp only [CounterNote.foldl_advance_released, CounterNote.view_releasedAt]

end Sys2Proof.Machine
end

section
/-! Note-off (R113), the ENV pass slot by slot (R118 to R120), and what the events of an update show (R122 (e), R125). -/

namespace Sys2Proof.Machine

variable {s t : State}

/-! ### Note-off -/

theorem State.noteOff_of_released {r : Note} (h : r.off ≠ none) : s.noteOff r = .next r := by
  obtain ⟨off, hoff⟩ := Option.ne_none_iff_exists'.1 h
  rw [State.noteOff, hoff]

theorem State.noteOff_of_sounding {r : Note} {p : EnvParams} (hp : s.envParams r.voice = .next p)
    (hst : r.start.toNat ≤ s.now.toNat) (hoff : r.off = none) :
    s.noteOff r =
      if p.t3 ≤ s.now.toNat - r.start.toNat then .next r
      else .next
        { r with off := some s.now, relAmp := BitVec.ofNat 16 (envSounding p (s.now.toNat - r.start.toNat)).2 } := by
  rw [State.noteOff, hoff]
  simp only [hp, env_eq_sounding hoff hst, andThen_next]

/-- Settles O37: the envelope at `now` is that of a sounding note, and `t3` decides. -/
theorem noteOffIsAcceptedOnce : Obligations.NoteOffIsAcceptedOnce := by
  intro s r p hp hst
  refine ⟨State.noteOff_of_released, fun hoff ht3 => ?_, fun hoff ht3 => ?_⟩
  · rw [State.noteOff_of_sounding hp hst hoff, if_pos ht3]
  · rw [State.noteOff_of_sounding hp hst hoff, if_neg (Nat.not_le.2 ht3)]

/-! ### The ENV pass, slot by slot -/

theorem keepNote_of_ne_done {pa : Phase × Nat} (h : pa.1 ≠ .done) (c : Nat) (r : Note) :
    keepNote c r pa = [(c, { r with phase := pa.1, amp := BitVec.ofNat 16 pa.2 })] := if_neg h

section Pass

variable {et : U32} {l : NoteTable} {out : List Event × NoteTable}

/-- A pass over the first slot and the others evaluates the slot, then passes over the others. -/
theorem State.envNotes_cons {c : Nat × Note} :
    s.envNotes et (c :: l) = .next out ↔ ∃ pa out', s.noteEnv c.2 et = .next pa ∧ s.envNotes et l = .next out' ∧
      out = (s.eventOf c.1 c.2 pa :: out'.1, keepNote c.1 c.2 pa ++ out'.2) := by
  simp only [State.envNotes, andThen_eq_next, Host.Outcome.next.injEq, eq_comm (b := out), exists_and_left]

theorem State.envNotes_nil : s.envNotes et [] = .next out ↔ out = ([], []) := by
  simp only [State.envNotes, Host.Outcome.next.injEq, eq_comm (b := out)]

/-- What the events show, in the order of the slots, where each shows it of its slot. -/
theorem State.map_events_of_envNotes {β : Type} {f : Event → β} {g : Nat × Note → β} (h : s.envNotes et l = .next out)
    (hfg : ∀ c ∈ l, ∀ pa, s.noteEnv c.2 et = .next pa → f (s.eventOf c.1 c.2 pa) = g c) : out.1.map f = l.map g := by
  induction l generalizing out with
  | nil =>
    obtain rfl := State.envNotes_nil.1 h
    rfl
  | cons c l ih =>
    obtain ⟨pa, out', hpa, hout, rfl⟩ := State.envNotes_cons.1 h
    rw [List.map_cons, List.map_cons, hfg c List.mem_cons_self pa hpa,
      ih hout fun c' hc' => hfg c' (List.mem_cons_of_mem _ hc')]

/-- The same of the slots, where the pass destroys none. -/
theorem State.map_notes_of_envNotes {β : Type} {f : Nat × Note → β} (h : s.envNotes et l = .next out)
    (hf : ∀ c ∈ l, ∀ pa, s.noteEnv c.2 et = .next pa →
      pa.1 ≠ .done ∧ f (c.1, { c.2 with phase := pa.1, amp := BitVec.ofNat 16 pa.2 }) = f c) : out.2.map f = l.map f := by
  induction l generalizing out with
  | nil =>
    obtain rfl := State.envNotes_nil.1 h
    rfl
  | cons c l ih =>
    obtain ⟨pa, out', hpa, hout, rfl⟩ := State.envNotes_cons.1 h
    obtain ⟨hne, hc⟩ := hf c List.mem_cons_self pa hpa
    rw [keepNote_of_ne_done hne, List.singleton_append, List.map_cons, List.map_cons, hc,
      ih hout fun c' hc' => hf c' (List.mem_cons_of_mem _ hc')]

/-- Every slot is evaluated, reported and kept or destroyed (R118, R119). -/
theorem State.envNotes_of_mem (h : s.envNotes et l = .next out) {c : Nat × Note} (hc : c ∈ l) :
    ∃ pa, s.noteEnv c.2 et = .next pa ∧ s.eventOf c.1 c.2 pa ∈ out.1 ∧ keepNote c.1 c.2 pa ⊆ out.2 := by
  induction l generalizing out with
  | nil => cases hc
  | cons c' l ih =>
    obtain ⟨pa, out', hpa, hout, rfl⟩ := State.envNotes_cons.1 h
    rcases List.mem_cons.1 hc with rfl | hc
    · exact ⟨pa, hpa, List.mem_cons_self, List.subset_append_left _ _⟩
    · obtain ⟨pa', hpa', hevent, hkeep⟩ := ih hout hc
      exact ⟨pa', hpa', List.mem_cons_of_mem _ hevent, List.subset_append_of_subset_right _ hkeep⟩

/-- Every event is the report of a slot (R119). -/
theorem State.mem_events_of_envNotes (h : s.envNotes et l = .next out) {e : Event} (he : e ∈ out.1) :
    ∃ c ∈ l, ∃ pa, s.noteEnv c.2 et = .next pa ∧ e = s.eventOf c.1 c.2 pa := by
  induction l generalizing out with
  | nil =>
    obtain rfl := State.envNotes_nil.1 h
    cases he
  | cons c l ih =>
    obtain ⟨pa, out', hpa, hout, rfl⟩ := State.envNotes_cons.1 h
    rcases List.mem_cons.1 he with rfl | he
    · exact ⟨c, List.mem_cons_self, pa, hpa, rfl⟩
    · obtain ⟨c', hc', hrest⟩ := ih hout he
      exact ⟨c', List.mem_cons_of_mem _ hc', hrest⟩

/-- A free channel stays free (R118). -/
theorem State.get_of_envNotes_none (h : s.envNotes et l = .next out) {c : Nat} (hc : NoteTable.get l c = none) :
    NoteTable.get out.2 c = none := by
  refine lookupKey_eq_none_iff.2 fun slot hs heq => ?_
  obtain ⟨r, -, hm, -⟩ := State.mem_of_envNotes h hs
  exact lookupKey_eq_none_iff.1 hc _ hm heq

/-- An occupied channel afterwards: free where its note is DONE, else the note with its new phase and amplitude. -/
theorem State.get_of_envNotes_some (h : s.envNotes et l = .next out) (hl : NoteTable.wf l = true) {c : Nat} {r : Note}
    (hc : NoteTable.get l c = some r) {pa : Phase × Nat} (hpa : s.noteEnv r et = .next pa) (hkeep : keepNote c r pa ⊆ out.2) :
    NoteTable.get out.2 c = if pa.1 = .done then none else some { r with phase := pa.1, amp := BitVec.ofNat 16 pa.2 } := by
  split
  · rename_i hdone
    refine lookupKey_eq_none_iff.2 fun slot hs heq => ?_
    obtain ⟨r', pa', hm, hpa', hne, -⟩ := State.mem_of_envNotes h hs
    have hr' : NoteTable.get l c = some r' := (NoteTable.get_eq_some hl).2 (heq ▸ hm)
    obtain rfl : r = r' := Option.some.inj (hc.symm.trans hr')
    obtain rfl : pa = pa' := Host.Outcome.next.inj (hpa.symm.trans hpa')
    exact hne hdone
  · rename_i hne
    rw [keepNote_of_ne_done hne] at hkeep
    exact (NoteTable.get_eq_some (State.envNotes_wf h hl)).2 (hkeep List.mem_cons_self)

end Pass

/-- Two 16-bit numbers add up within the 17 bits of an output channel (R161). -/
theorem State.toNat_chanOut (s : State) {c : Nat} (hc : c < 65536) :
    (BitVec.ofNat 17 (s.channelOffset.toNat + c)).toNat = s.channelOffset.toNat + c := by
  have hoffset := s.channelOffset.isLt
  rw [BitVec.toNat_ofNat]
  omega

theorem State.Inv.channel_lt (h : s.Inv) {slot : Nat × Note} (hs : slot ∈ s.notes) : slot.1 < 65536 := by
  obtain ⟨hc, -⟩ := h.notes_legal slot hs
  exact hc.trans_le h.nChannels_range.2

/-- Settles O38: the pass writes the events and the note table, whose entries are those of its slots. -/
theorem envPassReportsAndRetires : Obligations.EnvPassReportsAndRetires := by
  intro s t hwf ht
  obtain ⟨out, hout, rfl⟩ := State.envPass_eq_next.1 ht
  refine ⟨rfl, State.envNotes_wf hout hwf, State.map_events_of_envNotes hout fun _ _ _ _ => rfl, fun hchan => ?_,
    fun c hc => State.get_of_envNotes_none hout hc, fun c r hc => ?_⟩
  · have hlt : ∀ slot ∈ s.notes, slot.1 < 65536 := hchan.elim (fun hinv _ hs => hinv.channel_lt hs) id
    exact State.map_events_of_envNotes hout fun slot hs _ _ => s.toNat_chanOut (hlt slot hs)
  · obtain ⟨pa, hpa, hevent, hkeep⟩ := State.envNotes_of_mem hout ((NoteTable.get_eq_some hwf).1 hc)
    exact ⟨pa.1, pa.2, hpa, hevent, State.get_of_envNotes_some hout hwf hc hpa hkeep⟩

/-! ### The events of a step -/

/-- The voices belong to the program. -/
theorem State.envParams_of_program (h : t.program = s.program) (v : Byte) : t.envParams v = s.envParams v :=
  (congrArg (State.envParams · v) h :)

/-- A pass over given slots reads the program alone: the voices and the offset of the output channels. -/
theorem State.envNotes_of_program (h : t.program = s.program) (et : U32) (l : NoteTable) :
    t.envNotes et l = s.envNotes et l := by
  have hevent : ∀ c r pa, t.eventOf c r pa = s.eventOf c r pa := fun c r pa => (congrArg (State.eventOf · c r pa) h :)
  induction l with
  | nil => rfl
  | cons c l ih => simp only [State.envNotes, State.noteEnv, State.envParams_of_program h, hevent, ih]

/-- Of the host operations only an effective update has events (R120). -/
theorem hostOp_of_event {op : HostOp} {e : Event} (h : hostOp op s = .next t) (he : e ∈ t.events) :
    ∃ tick, s.tickAdmissible tick = true ∧ s.paused = false ∧
      State.effectiveUpdate { s with lastTick := tick } tick = .next t := by
  have hreply : ∀ {u : State} {r : Option Reply}, t ≠ u.reply r := by
    rintro u r rfl
    cases he
  cases op with
  | construct offset buffer =>
    cases buffer with
    | none => exact absurd (Host.Outcome.next.inj h).symm hreply
    | some buf =>
      obtain ⟨u, -, hu⟩ := andThen_eq_next.1 h
      exact absurd (Host.Outcome.next.inj hu).symm hreply
  | load buffer => rcases State.load_eq_next h with ⟨-, ht⟩ | ⟨-, ht⟩ <;> exact absurd ht hreply
  | start => rcases State.start_eq_next h with ⟨-, ht⟩ | ⟨-, ht⟩ <;> exact absurd ht hreply
  | pause => rcases State.pause_eq_next h with ⟨-, ht⟩ | ⟨-, ht⟩ <;> exact absurd ht hreply
  | stop => rcases State.stop_eq_next h with ⟨-, _, -, ht⟩ | ⟨-, ht⟩ <;> exact absurd ht hreply
  | update tick =>
    obtain ⟨hadm, ⟨-, ht⟩ | ⟨hp, ht⟩⟩ := State.update_eq_next h
    · exact absurd ht hreply
    · exact ⟨tick, hadm, hp, ht⟩
  | isRunning => exact absurd (Host.Outcome.next.inj h).symm hreply
  | isPaused => exact absurd (Host.Outcome.next.inj h).symm hreply

/-- The events of an effective update are those of an ENV pass over a machine with the same program, in which every slot is legal
and every release level within its voice's volume. -/
theorem State.MidUpdate.events_of_effectiveUpdate (h : s.MidUpdate) (ht : s.effectiveUpdate s.lastTick = .next t) :
    ∃ (u : State) (out : List Event × NoteTable), u.MidUpdate ∧ u.program = s.program ∧
      u.envNotes u.now u.notes = .next out ∧ t.events = out.1 := by
  obtain ⟨s1, u, s3, h1, h2, h3, rfl⟩ := State.effectiveUpdate_eq_next.1 ht
  obtain ⟨out, hout, rfl⟩ := State.envPass_eq_next.1 h3
  have hmid : State.MidUpdate { s1 with log := [] } := { h.timeBase h1 with }
  have hprog : u.program = s1.program := (State.program_eq_of_atRest (State.sequence_atRest h2) :)
  exact ⟨u, out, (hmid.sequence h2).1, hprog.trans (State.timeBase_program h1), hout, rfl⟩

/-- What an ENV pass reports is within the volume (R122 (e)). -/
theorem State.MidUpdate.event_amp_le (h : s.MidUpdate) {out : List Event × NoteTable}
    (hout : s.envNotes s.now s.notes = .next out) {e : Event} (he : e ∈ out.1) {p : EnvParams}
    (hp : s.envParams e.voice = .next p) : e.amp.toNat ≤ p.volume.toNat := by
  obtain ⟨c, hc, pa, hpa, rfl⟩ := State.mem_events_of_envNotes hout he
  obtain ⟨p', hp', henv⟩ := State.noteEnv_eq_next.1 hpa
  obtain rfl : p' = p := Host.Outcome.next.inj (hp'.symm.trans hp)
  have hle := env_le_volume (State.envParams_sustain_le hp) (h.notes_released c hc p' hp) henv
  exact (toNat_ofNat_of_le hle).trans_le hle

/-- Settles O39: only an effective update has events, and its commands keep the program and the bound on the release levels. -/
theorem eventAmplitudeWithinVolume : Obligations.EventAmplitudeWithinVolume := by
  intro s t p e h ht hin he hp
  obtain ⟨op, rest, hin⟩ := List.exists_cons_of_ne_nil hin
  rw [step_cons hin] at ht
  obtain ⟨tick, hadm, hpaused, ht⟩ := hostOp_of_event ht he
  have hmid := ((h.with_inbox rest).with_tick hadm).midUpdate hpaused
  obtain ⟨u, out, hu, hprog, hout, hevents⟩ := hmid.events_of_effectiveUpdate ht
  have hvoice : u.envParams e.voice = s.envParams e.voice := State.envParams_of_program hprog e.voice
  exact hu.event_amp_le hout (hevents ▸ he) (hvoice.trans hp)

/-! ### Where no engine time passes -/

/-- Evaluated again at `now`, a note shows the amplitude it has (R113, R125). -/
theorem State.Inv.noteEnv_now (h : s.Inv) {c : Nat × Note} (hc : c ∈ s.notes) {pa : Phase × Nat}
    (hpa : s.noteEnv c.2 s.now = .next pa) : pa.1 ≠ .done ∧ BitVec.ofNat 16 pa.2 = c.2.amp := by
  obtain ⟨p, pa', hp, -, henv, hne, hamp⟩ := State.slotCurrent_iff.1 (h.notes_current c hc)
  obtain rfl : pa = pa' := Host.Outcome.next.inj (hpa.symm.trans (State.noteEnv_eq_next.2 ⟨p, hp, henv⟩))
  exact ⟨hne, by rw [hamp, BitVec.ofNat_toNat, BitVec.setWidth_eq]⟩

/-- A closed gate is that of a command: at command 0 `due` is 0 (R12, R133). -/
theorem State.Inv.pc_ne_of_gate_closed (h : s.Inv) (hgate : s.now.toNat < s.due.toNat) : s.pc ≠ s.commandCount := by
  rcases h.pc_legal with hlt | hpc0
  · exact pc_ne_of_command hlt
  · simp [h.due_at_start hpc0] at hgate

/-- After a pause the whole gap goes into `skew` (R136, R141). -/
theorem State.effectiveUpdate_now_of_resync {tick : U32} (hr : s.resync = true) (h : s.effectiveUpdate tick = .next t) :
    t.now = s.now := by
  obtain ⟨s1, h1, -, hnow, -⟩ := State.effectiveUpdate_timeBase h
  rcases State.timeBase_eq_next.1 h1 with ⟨-, -, rfl⟩ | ⟨hr', -⟩
  · exact hnow
  · simp [hr] at hr'

/-- An effective update in which no engine time passes and no command is due is an ENV pass at `now` (R125, R136). -/
theorem State.Inv.effectiveUpdate_idle (h : s.Inv) {tick : U32} (ht : s.effectiveUpdate tick = .next t) (hnow : t.now = s.now)
    (hidle : s.running = false ∨ s.now.toNat < s.due.toNat) :
    ∃ out, s.envNotes s.now s.notes = .next out ∧ t.events = out.1 ∧ t.notes = out.2 := by
  obtain ⟨s1, h1, -, hkept, -⟩ := State.effectiveUpdate_timeBase ht
  have hnow1 : s1.now = s.now := hkept.symm.trans hnow
  obtain ⟨hpc, hcount, hdue, hnotes⟩ :
      s1.pc = s.pc ∧ s1.commandCount = s.commandCount ∧ s1.due = s.due ∧ s1.notes = s.notes := by
    obtain ⟨now, skew, resync, rfl⟩ := State.timeBase_frame h1
    exact ⟨rfl, rfl, rfl, rfl⟩
  have hidle1 : s.running = false ∨ (s1.pc ≠ s1.commandCount ∧ s1.now.toNat < s1.due.toNat) := by
    rw [hpc, hcount, hdue, hnow1]
    exact hidle.imp_right fun hgate => ⟨h.pc_ne_of_gate_closed hgate, hgate⟩
  rw [State.effectiveUpdate_of_no_command h1 hidle1] at ht
  obtain ⟨s3, h3, ht⟩ := andThen_eq_next.1 ht
  obtain rfl := Host.Outcome.next.inj ht
  obtain ⟨out, hout, rfl⟩ := State.envPass_eq_next.1 h3
  refine ⟨out, ?_, rfl, rfl⟩
  calc s.envNotes s.now s.notes
    _ = s1.envNotes s1.now s1.notes := by rw [State.envNotes_of_program (State.timeBase_program h1), hnow1, hnotes]
    _ = .next out := (State.envNotes_of_program (t := { s1 with log := [] }) (s := s1) rfl s1.now s1.notes).symm.trans hout

/-- Settles O40: after a pause the time base keeps `now`, and with no engine time and no command the ENV pass evaluates at `now`
the notes it evaluated there last. -/
theorem noEngineTimeNoChange : Obligations.NoEngineTimeNoChange := by
  intro s t tick rest h hin heff ht
  rw [step_cons hin] at ht
  obtain ⟨hadm, ⟨hp, -⟩ | ⟨-, ht⟩⟩ := State.update_eq_next ht
  · have hp : s.paused = true := hp
    simp [State.effective_eq_not_paused, hp] at heff
  · refine ⟨fun hr => State.effectiveUpdate_now_of_resync (s := { s with inbox := rest, lastTick := tick }) hr ht,
      fun hnow hidle => ?_⟩
    have hinv := (h.with_inbox rest).with_tick hadm
    obtain ⟨out, hout, hevents, hnotes⟩ := hinv.effectiveUpdate_idle ht hnow hidle
    rw [hevents, hnotes]
    exact ⟨State.map_events_of_envNotes hout fun c hc pa hpa => (hinv.noteEnv_now hc hpa).2,
      State.map_notes_of_envNotes hout fun c hc pa hpa =>
        ⟨(hinv.noteEnv_now hc hpa).1, congrArg (Prod.mk c.1) (hinv.noteEnv_now hc hpa).2⟩⟩

end Sys2Proof.Machine
end

section
/-! One command of an update: its record in the image is what the loop fetches (R46, R80, R81), and `State.withFetchWord` puts such a
record at `pc` as the last of the program (log entry 6). -/

namespace Sys2Proof.Machine

variable {s : State}

/-! ### The record at an index -/

/-- The opcode and the operand of a record lie where R46 puts them, whatever the pad byte. -/
theorem getElem?_paddedRecord (lay : Layout) (pad : Byte) (i : Instr) :
    (paddedRecord pad i lay)[0]? = some (opcodeOf i) ∧
      (paddedRecord pad i lay)[operandOffset lay]? = some (loByte (operandOf i)) ∧
      (paddedRecord pad i lay)[operandOffset lay + 1]? = some (hiByte (operandOf i)) := by
  cases lay <;> exact ⟨rfl, rfl, rfl⟩

/-- A fetch answers the command that the bytes of the record decode to (R80, R81). -/
theorem State.fetch_of_decode {k : U16} {bs : List Byte} {i : Instr} (hk : k.toNat < s.commandCount.toNat)
    (hbs : s.image.readBytes (s.commandOffset k.toNat) (cmdBytes s.params.layout) = some bs)
    (hi : decode s.params.layout bs = .ok (i, [])) : s.fetch k = .next i := by
  obtain ⟨hwf, pad, rfl⟩ := decode_eq_ok.1 hi
  rw [List.append_nil] at hbs
  obtain ⟨-, hread⟩ := Memory.readBytes_eq_some.1 hbs
  have hin := operandOffset_lt s.params.layout
  obtain ⟨hop, hlo, hhi⟩ := getElem?_paddedRecord s.params.layout pad i
  exact State.fetch_eq_next.2 ⟨hk, opcodeOf i, operandOf i, (hread 0 (by omega)).trans hop,
    memRead16_eq_next.2 ⟨_, _, (hread _ (by omega)).trans hlo, (hread _ hin).trans hhi, (le16_loByte_hiByte _).symm⟩,
    (instrOf_opcodeOf_operandOf hwf).symm⟩

/-! ### An update that reaches a command -/

/-- An effective update whose command at `pc` is due is its time base, that command, the rest of the loop, and the ENV pass
(R136). -/
theorem State.effectiveUpdate_of_command {s1 : State} {tick : U32} {i : Instr} {k : Nat} (hrun : s.running = true)
    (hcap : s.params.stepCap = k + 1) (h1 : s.timeBase tick = .next s1) (hdue : s1.commandDue)
    (hi : s1.fetch s1.pc = .next i) :
    s.effectiveUpdate tick = andThen (exec i { s1 with log := [] }) fun t => andThen (pcdLoop k t) fun u =>
      andThen u.envPass fun v => .next { v with result := some (.bool true) } := by
  obtain ⟨hlt, hgate⟩ := hdue
  obtain ⟨hrun1, hcap1⟩ : s1.running = true ∧ s1.params.stepCap = k + 1 := by
    obtain ⟨now, skew, resync, rfl⟩ := State.timeBase_frame h1
    exact ⟨hrun, hcap⟩
  have hseq : (s1.setLog []).sequence = andThen (exec i (s1.setLog [])) fun t => pcdLoop k t := by
    calc (s1.setLog []).sequence
      _ = pcdLoop (k + 1) (s1.setLog []) := by
        rw [State.sequence, State.setLog_running, if_pos hrun1, State.setLog_params, hcap1]
      _ = andThen (s1.fetch s1.pc) fun j => andThen (exec j (s1.setLog [])) fun t => pcdLoop k t :=
        pcdLoop_dispatch (s := s1.setLog []) (pc_ne_of_command hlt) hgate k
      _ = _ := by rw [hi, andThen_next]
  rw [State.effectiveUpdate, h1, andThen_next, hseq, andThen_assoc]
  rfl

/-- Settles O20: a running machine is not Paused, so the update is effective, and the loop fetches what the record decodes to. -/
theorem stepRunsTheDecodedCommand : Obligations.StepRunsTheDecodedCommand := by
  intro s s1 tick rest k bs i hin hadm hrun hcap h1 hdue hbs hi
  have heff : s.effective = true := by simp [State.effective, hrun]
  calc step s
    _ = State.update { s with inbox := rest } tick := step_cons hin
    _ = State.effectiveUpdate { s with inbox := rest, lastTick := tick } tick :=
      State.update_of_effective (s := { s with inbox := rest }) hadm heff
    _ = _ := State.effectiveUpdate_of_command hrun hcap h1 hdue (State.fetch_of_decode hdue.1 hbs hi)

/-! ### The word to fetch -/

/-- Putting bytes leaves what lies before them alone. -/
theorem Memory.read_putAll_of_lt {a k : Nat} (h : k < a) (m : Memory) (bs : List Byte) :
    (m.putAll a bs).read k = m.read k := by
  induction bs generalizing m a with
  | nil => rfl
  | cons b bs ih =>
    rw [Memory.putAll, ih (Nat.lt_succ_of_lt h), Memory.read_put_other (Nat.ne_of_lt h)]

/-- Reading the bytes just put gives them. -/
theorem Memory.readBytes_putAll (m : Memory) (a : Nat) (bs : List Byte) :
    (m.putAll a bs).readBytes a bs.length = some bs := by
  induction bs generalizing m a with
  | nil => rfl
  | cons b bs ih =>
    have hfirst : ((m.put a b).putAll (a + 1) bs).read a = some b := by
      rw [Memory.read_putAll_of_lt (Nat.lt_succ_self a), Memory.read_put_same]
    simp only [Memory.putAll, List.length_cons, Memory.readBytes, hfirst, ih]

theorem length_tableBytes (lay : Layout) (nbits w : Nat) : (tableBytes lay nbits w).length = cmdBytes lay := by
  cases lay <;> rfl

/-- A word of the opcode table, stored in either layout, decodes to the command of the word (R60). -/
theorem decode_tableBytes (lay : Layout) (nbits w : Nat) :
    decode lay (tableBytes lay nbits w) = .ok (instrOf (tableOpcode nbits w) (tableOperand nbits w), []) := by
  cases lay <;> simp only [tableBytes, encodeFields, decode, le16_loByte_hiByte]

/-- Between host operations `pc + 1` fits (R12). -/
theorem State.Inv.pc_succ_lt (h : s.Inv) : s.pc.toNat + 1 < 65536 := by
  rcases h.pc_legal with hlt | h0
  · exact pc_succ_lt_of_command hlt
  · simp [h0]

/-- The record of the word is the one at `pc`. -/
theorem State.withFetchWord_record (s : State) (nbits w : Nat) :
    (s.withFetchWord nbits w).image.readBytes (s.commandOffset s.pc.toNat) (cmdBytes s.params.layout) =
      some (tableBytes s.params.layout nbits w) := by
  rw [← length_tableBytes s.params.layout nbits w]
  exact Memory.readBytes_putAll _ _ _

/-- Settles O21: by O20 the update runs the command of the word, and as its record is the last of the program the song ends after
it. -/
theorem fetchWordRunsExactlyThatWord : Obligations.FetchWordRunsExactlyThatWord := by
  intro s w h
  obtain ⟨s1, h1⟩ := State.timeBase_total (s := { s.withFetchWord 24 w with inbox := [] }) (tick := s.lastTick) h.clock
  refine ⟨_, s1, decodeTableWord_eq 24 w, h1, ?_⟩
  obtain ⟨k, hk⟩ := Nat.exists_eq_add_of_le' h.stepCap_pos
  have hadm : (s.withFetchWord 24 w).tickAdmissible s.lastTick = true := by
    simpa [State.tickAdmissible, State.withFetchWord] using h.tick_range
  have hsucc := pc_succ_toNat h.pc_succ_lt
  obtain ⟨now, skew, resync, rfl⟩ := State.timeBase_frame h1
  have hdue : State.commandDue { s.withFetchWord 24 w with inbox := [], now := now, skew := skew, resync := resync } :=
    ⟨hsucc ▸ Nat.lt_succ_self s.pc.toNat, Nat.zero_le _⟩
  refine (stepRunsTheDecodedCommand (s.withFetchWord 24 w) _ s.lastTick [] k _ _ rfl hadm rfl hk h1 hdue
    (s.withFetchWord_record 24 w) (decode_tableBytes _ 24 w)).trans (andThen_congr fun t ht => ?_)
  obtain ⟨hpc, -, hcount⟩ := exec_advances ht
  have hend : t.pc = t.commandCount := BitVec.eq_of_toNat_eq (by rw [hpc, hcount]; exact hsucc.symm)
  rw [pcdLoop_end hend, andThen_next]

end Sys2Proof.Machine
end

section
/-! The host operations (42_host_operations.md): what each leaves and answers, and the conditions of R15 that follow. -/

namespace Sys2Proof.Machine

variable {s t : State}

/-! ### `construct` and `load` -/

/-- Settles O14: both sides are the model's `construct`, which calls the `load` a step calls. -/
theorem constructIsResetThenLoad : Obligations.ConstructIsResetThenLoad :=
  ⟨fun _ _ _ hin => step_cons hin, fun _ _ _ _ hin => step_cons hin⟩

/-- A buffer that passes the checks of R44 is taken where no version is asked for (R45, R132). -/
theorem State.load_of_ok {buf : List Byte} (hok : loadCheck s.params.layout buf = .ok)
    (hver : s.params.supportedVersion = none) : s.load buf = .next ((s.withProgram buf).reply (some (.code .ok))) := by
  have hacc : s.versionRefused buf = false := by rw [State.versionRefused, hver]
  rw [State.load, hok, hacc]
  rfl

/-- A byte that a buffer has is the one `getD` gives. -/
theorem getD_of_getElem? {buf : List Byte} {a : Nat} {b : Byte} (h : buf[a]? = some b) : buf.getD a 0 = b := by
  rw [List.getD_eq_getElem?_getD, h, Option.getD_some]

/-- Settles O12: the bytes given are those the checks and the header registers are read from. -/
theorem loadTakesTheProgram : Obligations.LoadTakesTheProgram := by
  intro s buf rest version vc lo hi hin hver hmagic hversion hvc hlo hhi hlen
  have hvoices : bufferVoices buf = vc.toNat := congrArg BitVec.toNat (getD_of_getElem? hvc)
  have hcount : BitVec.ofNat 16 (bufferCommands s.params.layout buf) = le16 lo hi := by
    rw [ofNat_bufferCommands, hvoices, getD_of_getElem? hlo, getD_of_getElem? hhi]
  have hcommands : bufferCommands s.params.layout buf = lo.toNat + 256 * hi.toNat := by
    rw [← toNat_bufferCommands, hcount, toNat_le16]
  have hok : loadCheck s.params.layout buf = .ok :=
    loadCheck_eq_ok.2 ⟨(List.prefix_iff_eq_take.1 hmagic).symm, by rw [hvoices, hcommands]; exact hlen⟩
  calc step s
    _ = State.load { s with inbox := rest } buf := step_cons hin
    _ = .next ((State.withProgram { s with inbox := rest } buf).reply (some (.code .ok))) := State.load_of_ok hok hver
    _ = _ := by
      rw [State.withProgram, getD_of_getElem? hversion, ofNat_bufferVoices, getD_of_getElem? hvc, hcount]
      rfl

/-! ### `start`, `pause`, `stop` and the queries -/

theorem State.start_of_loaded (hl : s.loaded = true) :
    s.start = .next (State.reply { s with running := true } (some (.bool true))) := if_pos hl

theorem State.start_of_unloaded (hl : s.loaded = false) : s.start = .next (s.reply (some (.bool false))) :=
  if_neg (by simp [hl])

/-- Settles O41: the test on `loaded` is all there is. -/
theorem startRunsOrIsRejected : Obligations.StartRunsOrIsRejected := by
  intro s rest hin
  rw [step_cons hin]
  exact ⟨State.start_of_loaded (s := { s with inbox := rest }), State.start_of_unloaded (s := { s with inbox := rest })⟩

theorem State.pause_of_loaded (hl : s.loaded = true) :
    s.pause = .next (State.reply
      { s with running := false, resync := if s.running && decide (0 < s.pc.toNat) then true else s.resync }
      (some (.bool true))) := if_pos hl

theorem State.pause_of_unloaded (hl : s.loaded = false) : s.pause = .next (s.reply (some (.bool false))) :=
  if_neg (by simp [hl])

/-- Settles O42: the machine becomes Paused exactly where it is running and `pc > 0`. -/
theorem pauseFreezesTheRun : Obligations.PauseFreezesTheRun := by
  intro s rest hin
  have hpause := State.pause_of_loaded (s := { s with inbox := rest })
  rw [step_cons hin]
  refine ⟨fun hl hrun hpc => (hpause hl).trans ?_, fun hl hrun hpc => (hpause hl).trans ?_,
    fun hl hrun => (hpause hl).trans ?_, State.pause_of_unloaded (s := { s with inbox := rest })⟩
  · simp only [hrun, hpc, decide_true, Bool.and_self, if_true]
    rfl
  · simp [hpc, State.reply]
  · simp [hrun, State.reply]

/-- Two tables matched entry by entry hold related values at each key. -/
theorem lookupKey_of_forall₂ {α β : Type} {R : α → β → Prop} {l : List (Nat × α)} {l' : List (Nat × β)}
    (h : List.Forall₂ (fun c c' => c'.1 = c.1 ∧ R c.2 c'.2) l l') (k : Nat) :
    (lookupKey k l = none → lookupKey k l' = none) ∧
      ∀ v, lookupKey k l = some v → ∃ v', lookupKey k l' = some v' ∧ R v v' := by
  induction h with
  | nil => simp [lookupKey]
  | @cons c c' _ _ hc _ ih =>
    obtain ⟨a, w⟩ := c
    obtain ⟨_, w'⟩ := c'
    obtain ⟨rfl, hw⟩ := hc
    simp only [lookupKey]
    split
    · simpa using hw
    · exact ih

/-- Settles O43: under the invariant the note-off of all slots answers, and it works slot by slot. -/
theorem stopReleasesEveryNote : Obligations.StopReleasesEveryNote := by
  intro s rest h hin
  obtain ⟨t, ht⟩ := (h.with_inbox rest).stop_total
  have hstep : step s = .next t := (step_cons hin).trans ht
  rcases State.stop_eq_next ht with ⟨hl, notes, hn, rfl⟩ | ⟨hl, rfl⟩
  · have hslots : List.Forall₂ (fun c c' => c'.1 = c.1 ∧ s.noteOff c.2 = .next c'.2) s.notes notes :=
      (State.noteOffAll_eq_next.1 hn :)
    have hget := lookupKey_of_forall₂ (R := fun r r' => s.noteOff r = .next r') hslots
    exact ⟨fun _ => ⟨notes, hstep, State.noteOffAll_wf hn h.notes_wf, fun c => (hget c).1, fun c => (hget c).2⟩,
      fun hl' => Bool.noConfusion (hl.symm.trans hl')⟩
  · exact ⟨fun hl' => Bool.noConfusion (hl.symm.trans hl'), fun _ => hstep⟩

/-- Paused is not stored: it is `running = 0 and pc > 0` (R14). -/
theorem State.paused_iff : s.paused = true ↔ s.running = false ∧ 0 < s.pc.toNat := by
  simp [State.paused]

/-- Settles O44: a query is its answer. -/
theorem queriesChangeNothing : Obligations.QueriesChangeNothing := by
  intro s rest
  refine ⟨step_cons, fun hin => ?_⟩
  have hpaused : s.paused = decide (s.running = false ∧ 0 < s.pc.toNat) :=
    Bool.eq_iff_iff.2 (State.paused_iff.trans decide_eq_true_iff.symm)
  rw [step_cons hin, ← hpaused]
  rfl

/-! ### `update` -/

/-- Settles O46: the differences do not wrap, as the sum of `skew` and `now` is at most the tick. -/
theorem timeBaseAbsorbsThePause : Obligations.TimeBaseAbsorbsThePause := by
  intro s tick hclock
  have hnow : s.now.toNat ≤ tick.toNat := by omega
  exact ⟨fun hr => ⟨_, sub_toNat hnow, State.timeBase_eq_next.2 (.inl ⟨hr, hnow, rfl⟩)⟩,
    fun hr => ⟨_, sub_toNat (by omega), State.timeBase_eq_next.2 (.inr ⟨hr, hclock, rfl⟩)⟩⟩

/-- A tick is admissible from the last one on and below `TICK_LIMIT` (R140). -/
theorem State.tickAdmissible_iff {tick : U32} :
    s.tickAdmissible tick = true ↔ s.lastTick.toNat ≤ tick.toNat ∧ tick.toNat < tickLimit := by
  simp [State.tickAdmissible]

/-- Settles O47: such a tick is not admissible, which is tested before anything else. -/
theorem brokenTickDutyIsRefused : Obligations.BrokenTickDutyIsRefused := by
  intro s tick rest hin hbroken
  have hadm : ¬ State.tickAdmissible { s with inbox := rest } tick = true := by
    rw [State.tickAdmissible_iff]
    show ¬ (s.lastTick.toNat ≤ tick.toNat ∧ tick.toNat < 4294901760)
    omega
  rw [step_cons hin]
  exact if_neg hadm

/-! ### The conditions (R15) -/

theorem State.condition_eq_running : s.condition = .running ↔ s.running = true := by
  unfold State.condition
  split_ifs <;> simp [*]

theorem State.condition_eq_paused : s.condition = .paused ↔ s.paused = true := by
  unfold State.condition State.paused
  split_ifs <;> simp [*]

theorem State.condition_eq_stopped : s.condition = .stopped ↔ s.running = false ∧ s.pc = 0 := by
  unfold State.condition
  split_ifs with hrun hpc
  · simp [hrun]
  · exact iff_of_false (by simp) fun ⟨_, h0⟩ => by simp [h0] at hpc
  · exact iff_of_true rfl ⟨by simpa using hrun, BitVec.eq_of_toNat_eq (Nat.eq_zero_of_not_pos hpc)⟩

/-- The condition is computed from `running` and `pc` alone (R14, R15). -/
theorem State.condition_congr (hrun : t.running = s.running) (hpc : t.pc = s.pc) : t.condition = s.condition := by
  rw [State.condition, State.condition, hrun, hpc]

/-- An update while Paused writes the ghost alone (R139). -/
theorem State.update_of_paused {tick : U32} (hadm : s.tickAdmissible tick = true) (hp : s.paused = true) :
    s.update tick = .next (State.reply { s with lastTick := tick } (some (.bool true))) := by
  rw [State.update, if_pos hadm, if_pos hp]
  rfl

/-- Settles O45: the tick is admissible, so the test for Paused decides. -/
theorem pausedUpdateIsANoOp : Obligations.PausedUpdateIsANoOp := by
  intro s tick rest hin hadm hp
  exact (step_cons hin).trans
    (State.update_of_paused (s := { s with inbox := rest }) hadm (State.condition_eq_paused.1 hp))

/-- A running machine is still running after an effective update, or its song has ended (R77). -/
theorem State.effectiveUpdate_running {tick : U32} (hrun : s.running = true) (h : s.effectiveUpdate tick = .next t) :
    t.running = true ∨ (t.running = false ∧ t.pc = 0 ∧ t.due = 0) := by
  obtain ⟨s1, s2, s3, h1, h2, h3, rfl⟩ := State.effectiveUpdate_eq_next.1 h
  obtain ⟨out, -, rfl⟩ := State.envPass_eq_next.1 h3
  have hrun1 : s1.running = true := by
    obtain ⟨now, skew, resync, rfl⟩ := State.timeBase_frame h1
    exact hrun
  rw [State.sequence, if_pos hrun1] at h2
  rcases loopAdvancesAtMostTheCap _ _ _ h2 with ⟨hkeep, -⟩ | ⟨hstop, hpc, hdue, -⟩
  · exact .inl (hkeep.trans hrun1)
  · exact .inr ⟨hstop, hpc, hdue⟩

theorem State.update_running {tick : U32} (hrun : s.running = true) (h : s.update tick = .next t) :
    t.running = true ∨ (t.running = false ∧ t.pc = 0 ∧ t.due = 0) := by
  obtain ⟨-, ⟨hp, -⟩ | ⟨-, h⟩⟩ := State.update_eq_next h
  · simp [State.paused, hrun] at hp
  · exact State.effectiveUpdate_running (s := { s with lastTick := tick }) hrun h

/-- A load leaves the machine Stopped, or as it was where the checks of R44 fail (R132). -/
theorem State.load_condition {buf : List Byte} (h : s.load buf = .next t) :
    t.condition = if loadCheck s.params.layout buf = .ok then .stopped else s.condition := by
  rcases State.load_eq_next h with ⟨hok, rfl⟩ | ⟨hne, rfl⟩
  · rw [if_pos hok]
    rfl
  · rw [if_neg hne]
    rfl

/-- What `construct` leaves is Stopped: of its load too, as that may only leave the reset machine as it is (R131). -/
theorem State.construct_condition {offset : U16} {buffer : Option (List Byte)} (h : s.construct offset buffer = .next t) :
    t.condition = .stopped := by
  cases buffer with
  | none =>
    obtain rfl := Host.Outcome.next.inj h
    rfl
  | some buf =>
    obtain ⟨u, hu, h⟩ := andThen_eq_next.1 h
    obtain rfl := Host.Outcome.next.inj h
    exact (State.load_condition hu).trans (ite_self _)

/-- A pause of a loaded machine stops it where it is (R134). -/
theorem State.pause_run (hl : s.loaded = true) (h : s.pause = .next t) : t.running = false ∧ t.pc = s.pc := by
  rw [State.pause_of_loaded hl] at h
  obtain rfl := Host.Outcome.next.inj h
  exact ⟨rfl, rfl⟩

/-- Settles O49, operation by operation: what each leaves in `running` and `pc`. -/
theorem conditionsFollowTheTable : Obligations.ConditionsFollowTheTable := by
  intro s t rest hl ht
  have hop : ∀ {op : HostOp}, s.inbox = op :: rest → hostOp op { s with inbox := rest } = .next t :=
    fun hin => (step_cons hin).symm.trans ht
  refine ⟨fun hin => ?start, fun hin => ?stop, fun hin => ?pause, fun tick hin => ?update, fun buf hin => ?load,
    fun offset buffer hin => ?construct⟩
  case start =>
    rcases State.start_eq_next (hop hin) with ⟨-, rfl⟩ | ⟨hl', -⟩
    · rfl
    · exact Bool.noConfusion (hl.symm.trans hl')
  case stop =>
    rcases State.stop_eq_next (hop hin) with ⟨-, _, -, rfl⟩ | ⟨hl', -⟩
    · rfl
    · exact Bool.noConfusion (hl.symm.trans hl')
  case pause =>
    obtain ⟨hrun, hpc⟩ := State.pause_run (s := { s with inbox := rest }) hl (hop hin)
    refine ⟨fun _ hpos => State.condition_eq_paused.2 ?_, fun _ h0 => State.condition_eq_stopped.2 ⟨hrun, hpc.trans h0⟩,
      fun hne => State.condition_congr (hrun.trans ?_) hpc⟩
    · exact State.paused_iff.2 ⟨hrun, hpc ▸ hpos⟩
    · simpa [State.condition_eq_running] using hne
  case update =>
    have hkeep : s.running = false → t.condition = s.condition := fun hrun => by
      obtain ⟨hrun', hpc, -⟩ := notRunningDispatchesNothing.1 s t tick rest hin hrun ht
      exact State.condition_congr (hrun'.trans hrun.symm) hpc
    refine ⟨fun hc => (hkeep ?_).trans hc, fun hc => (hkeep (State.condition_eq_stopped.1 hc).1).trans hc, fun hc => ?_⟩
    · exact (State.paused_iff.1 (State.condition_eq_paused.1 hc)).1
    · rcases State.update_running (s := { s with inbox := rest }) (State.condition_eq_running.1 hc) (hop hin) with
        hrun | ⟨hrun, hpc, hdue⟩
      · exact .inl (State.condition_eq_running.2 hrun)
      · exact .inr ⟨State.condition_eq_stopped.2 ⟨hrun, hpc⟩, hdue⟩
  case load => exact State.load_condition (s := { s with inbox := rest }) (hop hin)
  case construct => exact State.construct_condition (hop hin)

/-! ### The results (R142) -/

/-- An update answers true, Paused or not. -/
theorem State.update_result {tick : U32} (h : s.update tick = .next t) : t.result = some (.bool true) := by
  obtain ⟨-, ⟨-, rfl⟩ | ⟨-, h⟩⟩ := State.update_eq_next h
  · rfl
  · obtain ⟨-, -, -, -, -, -, rfl⟩ := State.effectiveUpdate_eq_next.1 h
    rfl

/-- Settles O48, operation by operation. -/
theorem repliesFollowTheTable : Obligations.RepliesFollowTheTable := by
  intro s t rest ht
  have hop : ∀ {op : HostOp}, s.inbox = op :: rest → hostOp op { s with inbox := rest } = .next t :=
    fun hin => (step_cons hin).symm.trans ht
  refine ⟨fun buf hin => ?load, fun hin => ?start, fun hin => ?pause, fun hin => ?stop, fun tick hin => ?update⟩
  case load =>
    rcases State.load_eq_next (hop hin) with ⟨hok, rfl⟩ | ⟨hne, rfl⟩
    · exact congrArg some (decide_eq_true hok).symm
    · rfl
  case start => rcases State.start_eq_next (hop hin) with ⟨hl, rfl⟩ | ⟨hl, rfl⟩ <;> simpa using hl.symm
  case pause => rcases State.pause_eq_next (hop hin) with ⟨hl, rfl⟩ | ⟨hl, rfl⟩ <;> simpa using hl.symm
  case stop => rcases State.stop_eq_next (hop hin) with ⟨hl, _, -, rfl⟩ | ⟨hl, rfl⟩ <;> simpa using hl.symm
  case update => exact State.update_result (hop hin)

end Sys2Proof.Machine
end

section
/-! What a failed load leaves (R151, R152), and the independence of instances (R166). -/

namespace Sys2Proof.Machine

variable {s : State} {lay : Layout} {buf : List Byte}

/-! ### The error codes of `load` (R44, R150) -/

/-- The magic alone decides `InvalidMagic`: its check is the first of R44. -/
theorem loadCheck_eq_invalidMagic : loadCheck lay buf = .invalidMagic ↔ ¬ magic <+: buf := by
  have hshort : buf.length < 4 → buf.take 4 ≠ magic := fun hlt hmagic => by
    have hfour : (buf.take 4).length = 4 := congrArg List.length hmagic
    rw [List.length_take] at hfour
    omega
  have hprefix : magic <+: buf ↔ buf.take 4 = magic := List.prefix_iff_eq_take.trans eq_comm
  rw [hprefix]
  unfold loadCheck
  constructor
  · intro h
    split_ifs at h with hbad
    exact hbad.elim hshort id
  · exact fun hne => if_pos (.inr hne)

/-- The checks of R44 give no other code. -/
theorem loadCheck_cases (lay : Layout) (buf : List Byte) :
    loadCheck lay buf = .ok ∨ loadCheck lay buf = .invalidMagic ∨ loadCheck lay buf = .truncatedBuffer := by
  unfold loadCheck
  split_ifs <;> simp

/-- With the right magic, a buffer that ends before its command table does is truncated. -/
theorem loadCheck_eq_truncatedBuffer (hmagic : magic <+: buf)
    (hlen : buf.length < imageEnd lay (bufferVoices buf) (bufferCommands lay buf)) :
    loadCheck lay buf = .truncatedBuffer := by
  rcases loadCheck_cases lay buf with hok | hbad | htrunc
  · exact absurd (loadCheck_eq_ok.1 hok).2 (Nat.not_le_of_lt hlen)
  · exact absurd hmagic (loadCheck_eq_invalidMagic.1 hbad)
  · exact htrunc

/-- The image ends after its header and after its command count (R42). -/
theorem le_imageEnd (lay : Layout) (voices commands : Nat) :
    6 ≤ imageEnd lay voices commands ∧ countOffset lay voices + 2 ≤ imageEnd lay voices commands := by
  unfold imageEnd commandBase countOffset headerBytes
  omega

/-- A byte that a buffer has is the number its checks read there. -/
theorem bufferByte_of_getElem? {a : Nat} {b : Byte} (h : buf[a]? = some b) : bufferByte buf a = b.toNat :=
  congrArg BitVec.toNat (getD_of_getElem? h)

/-- R152's three ways to be short are one: the buffer ends before the command table that the checks read from it. -/
theorem length_lt_imageEnd
    (h : buf.length < 6 ∨ ∃ vc, buf[5]? = some vc ∧
      (buf.length < countOffset lay vc.toNat + 2 ∨
        ∃ lo hi, buf[countOffset lay vc.toNat]? = some lo ∧ buf[countOffset lay vc.toNat + 1]? = some hi ∧
          buf.length < countOffset lay vc.toNat + 2 + (lo.toNat + 256 * hi.toNat) * cmdBytes lay)) :
    buf.length < imageEnd lay (bufferVoices buf) (bufferCommands lay buf) := by
  obtain ⟨hheader, hcount⟩ := le_imageEnd lay (bufferVoices buf) (bufferCommands lay buf)
  rcases h with hlen | ⟨vc, hvc, hlen⟩
  · exact hlen.trans_le hheader
  have hvoices : bufferVoices buf = vc.toNat := bufferByte_of_getElem? hvc
  rcases hlen with hlen | ⟨lo, hi, hlo, hhi, hlen⟩
  · exact (hvoices ▸ hlen).trans_le hcount
  have hcommands : bufferCommands lay buf = lo.toNat + 256 * hi.toNat := by
    rw [bufferCommands, hvoices, bufferByte_of_getElem? hlo, bufferByte_of_getElem? hhi]
  rw [hvoices, hcommands]
  exact hlen

/-- A buffer that fails a check of R44 changes the reply alone, to the code of that check (R132). -/
theorem State.load_of_error {code : ErrorCode} (hcode : loadCheck s.params.layout buf = code) (hne : code ≠ .ok) :
    s.load buf = .next (s.reply (some (.code code))) := by
  unfold State.load
  split
  · exact absurd (hcode.symm.trans ‹_›) hne
  · rw [hcode]

/-- Settles O10: the check of the magic fails, and a failed check changes the reply alone. -/
theorem loadRejectsBadMagic : Obligations.LoadRejectsBadMagic := fun _ _ _ hin hmagic =>
  (step_cons hin).trans (State.load_of_error (loadCheck_eq_invalidMagic.2 hmagic) (by decide))

/-- Settles O11: the buffer ends before its command table does, and a failed check changes the reply alone. -/
theorem loadRejectsTruncatedBuffer : Obligations.LoadRejectsTruncatedBuffer := fun _ _ _ hin hmagic hshort =>
  (step_cons hin).trans
    (State.load_of_error (loadCheck_eq_truncatedBuffer hmagic (length_lt_imageEnd hshort)) (by decide))

/-! ### Several instances (R166) -/

/-- A transition of the system is a step of the one machine that moves, put back in its place. -/
theorem System.stepAt_eq_next {sys sys' : System} {k : Fin sys.length} :
    sys.stepAt k = .next sys' ↔ ∃ t, step sys[k] = .next t ∧ sys' = sys.set k t :=
  andThen_eq_next.trans (exists_congr fun _ => and_congr_right fun _ => by rw [Host.Outcome.next.injEq, eq_comm])

/-- Settles O58: writing one place of a list keeps its length and every other place. -/
theorem instancesAreIndependent : Obligations.InstancesAreIndependent := by
  intro sys sys' k h
  obtain ⟨t, ht, rfl⟩ := System.stepAt_eq_next.1 h
  exact ⟨List.length_set, ⟨t, ht, List.getElem?_set_self k.isLt⟩, fun j hj => List.getElem?_set_ne hj.symm⟩

end Sys2Proof.Machine
end

section
/-! Every run falls silent (R183). An update comes so late that the gate of every command is open (R18) and every note it finds is
over (R123): it moves a run on by a command at least, and once the song has ended it leaves no note. -/

namespace Sys2Proof.Machine

variable {s t : State}

/-! ### A note that is over -/

/-- A note is over 262140 ms after its times, whatever its voice (R123; R114 for a released one). -/
theorem env_of_long_past {p : EnvParams} {r : Note} {et : U32} {pa : Phase × Nat} (hstart : r.start.toNat + 262140 ≤ et.toNat)
    (hoff : ∀ off ∈ r.off, off.toNat + 262140 ≤ et.toNat) (h : env p r et = .next pa) : pa.1 = .done := by
  cases hr : r.off with
  | none =>
    obtain ⟨-, rfl⟩ := (env_of_sounding hr).1 h
    obtain ⟨-, -, -, hend⟩ := sustainAlwaysEnds p (et.toNat - r.start.toNat)
    exact congrArg Prod.fst (hend (by omega))
  | some off =>
    obtain ⟨-, rfl⟩ := (env_of_released hr).1 h
    have hlate := hoff off hr
    have hrelease := p.release.isLt
    rw [envReleased_done (by omega) (by omega)]

/-- An ENV pass 262140 ms after `now` destroys every legal slot (R118). -/
theorem State.envNotes_of_long_past {u : State} {et : U32} {l : NoteTable} {out : List Event × NoteTable}
    (hlegal : ∀ slot ∈ l, s.slotLegal slot) (hlate : s.now.toNat + 262140 ≤ et.toNat) (h : u.envNotes et l = .next out) :
    out.2 = [] := by
  refine List.eq_nil_iff_forall_not_mem.2 fun slot hs => ?_
  obtain ⟨r, pa, hm, hpa, hne, -⟩ := State.mem_of_envNotes h hs
  obtain ⟨-, -, hstart, hoff, -⟩ := hlegal _ hm
  obtain ⟨p, -, henv⟩ := State.noteEnv_eq_next.1 hpa
  have hstart : r.start.toNat ≤ s.now.toNat := hstart
  exact hne (env_of_long_past (by omega) (fun off ho => by have := (hoff off ho).2; omega) henv)

/-! ### One pass of the loop -/

/-- With the gate open and a cap left, a pass runs a command or ends the song (R76 to R79). -/
theorem pcdLoop_progress {k : Nat} (h : pcdLoop (k + 1) s = .next t) (hgate : s.due.toNat ≤ s.now.toNat) :
    t.running = false ∨ s.pc.toNat < t.pc.toNat := by
  by_cases he : s.pc = s.commandCount
  · rw [pcdLoop_end he] at h
    exact .inl (congrArg State.running (Host.Outcome.next.inj h).symm)
  · rw [pcdLoop_dispatch he hgate] at h
    obtain ⟨i, -, h⟩ := andThen_eq_next.1 h
    obtain ⟨u, hu, h⟩ := andThen_eq_next.1 h
    obtain ⟨hpc, -, -⟩ := exec_advances hu
    rcases loopAdvancesAtMostTheCap k u t h with ⟨-, hge, -⟩ | ⟨hstop, -⟩
    · exact .inr (by omega)
    · exact .inl hstop

/-! ### One effective update -/

section Effective

variable {tick : U32}

/-- An effective update leaves no pause to absorb (R141). -/
theorem State.effectiveUpdate_resync (h : s.effectiveUpdate tick = .next t) : t.resync = false := by
  obtain ⟨s1, s2, s3, h1, h2, h3, rfl⟩ := State.effectiveUpdate_eq_next.1 h
  obtain ⟨out, -, rfl⟩ := State.envPass_eq_next.1 h3
  have hrest : s2.resync = s1.resync := (congrArg State.resync (State.sequence_atRest h2) :)
  refine hrest.trans ?_
  rcases State.timeBase_eq_next.1 h1 with ⟨-, -, rfl⟩ | ⟨hr, -, rfl⟩
  · rfl
  · exact hr

theorem State.effectiveUpdate_lastTick (h : s.effectiveUpdate tick = .next t) : t.lastTick = s.lastTick := by
  obtain ⟨s1, h1, -, -, -, htick⟩ := State.effectiveUpdate_timeBase h
  obtain ⟨now, skew, resync, rfl⟩ := State.timeBase_frame h1
  exact htick

/-- With no pause to absorb, engine time passes as host time does (R141). -/
theorem State.effectiveUpdate_now (h : s.effectiveUpdate tick = .next t) (hr : s.resync = false) :
    t.now.toNat = tick.toNat - s.skew.toNat := by
  obtain ⟨s1, h1, -, hnow, -⟩ := State.effectiveUpdate_timeBase h
  rcases State.timeBase_eq_next.1 h1 with ⟨hr', -⟩ | ⟨-, hle, rfl⟩
  · simp [hr] at hr'
  · exact (congrArg BitVec.toNat hnow).trans (sub_toNat (by omega))

/-- An effective update does not pause the machine (R77, R139). -/
theorem State.effectiveUpdate_not_paused (h : s.effectiveUpdate tick = .next t) (hp : s.paused = false) : t.paused = false := by
  cases hrun : s.running with
  | true =>
    rcases State.effectiveUpdate_running hrun h with hrun' | ⟨-, hpc, -⟩
    · simp [State.paused, hrun']
    · simp [State.paused, hpc]
  | false =>
    obtain ⟨hrun', hpc, -⟩ := State.effectiveUpdate_not_running hrun h
    rw [← hp, State.paused, State.paused, hrun', hrun, hpc]

/-- An update that comes late enough to open the gate moves the run on, or ends the song. -/
theorem State.effectiveUpdate_progress (hcap : 1 ≤ s.params.stepCap) (hrun : s.running = true)
    (hgate : s.due.toNat ≤ t.now.toNat) (h : s.effectiveUpdate tick = .next t) :
    t.running = false ∨ s.pc.toNat < t.pc.toNat := by
  obtain ⟨s1, s2, s3, h1, h2, h3, rfl⟩ := State.effectiveUpdate_eq_next.1 h
  obtain ⟨out, -, rfl⟩ := State.envPass_eq_next.1 h3
  have hnow : s2.now = s1.now := (congrArg State.now (State.sequence_atRest h2) :)
  have hgate : s.due.toNat ≤ s1.now.toNat := hnow ▸ hgate
  obtain ⟨now, skew, resync, rfl⟩ := State.timeBase_frame h1
  obtain ⟨k, hk⟩ := Nat.exists_eq_add_of_le' hcap
  rw [State.sequence, if_pos hrun, hk] at h2
  exact (pcdLoop_progress h2 hgate :)

/-- Where nothing runs, an update that comes 262140 ms of engine time after the last one leaves no note. -/
theorem State.effectiveUpdate_silent (hlegal : ∀ slot ∈ s.notes, s.slotLegal slot) (hrun : s.running = false)
    (hlate : s.now.toNat + 262140 ≤ t.now.toNat) (h : s.effectiveUpdate tick = .next t) : t.notes = [] := by
  obtain ⟨s1, -, -, h1, -⟩ := State.effectiveUpdate_eq_next.1 h
  rw [State.effectiveUpdate_of_no_command h1 (.inl hrun)] at h
  obtain ⟨s3, h3, h⟩ := andThen_eq_next.1 h
  obtain rfl := Host.Outcome.next.inj h
  obtain ⟨out, hout, rfl⟩ := State.envPass_eq_next.1 h3
  obtain ⟨now, skew, resync, rfl⟩ := State.timeBase_frame h1
  exact State.envNotes_of_long_past hlegal hlate hout

end Effective

/-! ### How far from silence -/

/-- A bound on the late updates until the machine is silent: one for each command left, one for the end of the song, one for the
notes that are left. -/
def State.updatesToSilence (s : State) : Nat :=
  if s.running then s.commandCount.toNat - s.pc.toNat + 2 else if s.notes = [] then 0 else 1

theorem State.updatesToSilence_of_running (h : s.running = true) :
    s.updatesToSilence = s.commandCount.toNat - s.pc.toNat + 2 := if_pos h

theorem State.updatesToSilence_of_not_running (h : s.running = false) : s.updatesToSilence ≤ 1 := by
  rw [State.updatesToSilence, if_neg (by simp [h])]
  split <;> omega

theorem State.updatesToSilence_eq_zero_iff : s.updatesToSilence = 0 ↔ s.running = false ∧ s.notes = [] := by
  unfold State.updatesToSilence
  split_ifs <;> simp_all

theorem State.updatesToSilence_le (s : State) : s.updatesToSilence ≤ s.commandCount.toNat - s.pc.toNat + 2 := by
  cases h : s.running with
  | true => exact (State.updatesToSilence_of_running h).le
  | false => exact (State.updatesToSilence_of_not_running h).trans (by omega)

/-- A late update brings silence nearer. -/
theorem State.Inv.updatesToSilence_effectiveUpdate (h : s.Inv) {tick : U32} (ht : t.Inv)
    (hcount : t.commandCount = s.commandCount) (hr : s.resync = false)
    (hgap : s.skew.toNat + s.now.toNat + 262140 ≤ tick.toNat) (hu : s.effectiveUpdate tick = .next t) :
    t.updatesToSilence ≤ s.updatesToSilence - 1 := by
  have hlate : s.now.toNat + 262140 ≤ t.now.toNat := by
    rw [State.effectiveUpdate_now hu hr]
    omega
  cases hrun : s.running with
  | false =>
    obtain ⟨hrun', -⟩ := State.effectiveUpdate_not_running hrun hu
    rw [State.updatesToSilence_eq_zero_iff.2 ⟨hrun', State.effectiveUpdate_silent h.notes_legal hrun hlate hu⟩]
    exact Nat.zero_le _
  | true =>
    rw [State.updatesToSilence_of_running hrun]
    have hgate : s.due.toNat ≤ t.now.toNat := by have := h.due_bound; omega
    cases hrun' : t.running with
    | false => exact (State.updatesToSilence_of_not_running hrun').trans (by omega)
    | true =>
      have hpc := (State.effectiveUpdate_progress h.stepCap_pos hrun hgate hu).resolve_left (by simp [hrun'])
      have hle := (ht.midUpdate (by simp [State.paused, hrun'])).pc_le
      rw [State.updatesToSilence_of_running hrun', hcount]
      rw [hcount] at hle
      omega

/-! ### A run of late updates -/

/-- The machine is not Paused, has no pause to absorb, and all that is to come is updates at these ticks, 262140 ms apart. -/
structure State.SpacedRun (s : State) (ticks : List U32) : Prop where
  inv : s.Inv
  not_paused : s.paused = false
  resync : s.resync = false
  inbox : s.inbox = ticks.map HostOp.update
  spaced : ticksSpaced 262140 s.lastTick.toNat ticks

/-- One update of such a run answers, leaves the rest of the run, and brings silence nearer. -/
theorem State.SpacedRun.step {tick : U32} {ticks : List U32} (h : s.SpacedRun (tick :: ticks)) :
    ∃ t, step s = .next t ∧ t.SpacedRun ticks ∧ t.updatesToSilence ≤ s.updatesToSilence - 1 := by
  obtain ⟨hgap, hlimit, hspaced⟩ := h.spaced
  have hadm : s.tickAdmissible tick = true := State.tickAdmissible_iff.2 ⟨by omega, hlimit⟩
  have hinv : State.Inv { s with inbox := ticks.map HostOp.update } := h.inv.with_inbox _
  obtain ⟨t, ht⟩ := hinv.update_total hadm
  obtain ⟨-, -, -, -, -, hcount, -, hinbox⟩ := State.program_eq_iff.1 (State.update_program ht)
  obtain ⟨-, ⟨hp, -⟩ | ⟨hp, hu⟩⟩ := State.update_eq_next ht
  · exact absurd (h.not_paused.symm.trans hp) (by decide)
  have hgap : s.skew.toNat + s.now.toNat + 262140 ≤ tick.toNat := (Nat.add_le_add_right h.inv.clock _).trans hgap
  have hrest : t.SpacedRun ticks :=
    { inv := hinv.update ht
      not_paused := State.effectiveUpdate_not_paused hu hp
      resync := State.effectiveUpdate_resync hu
      inbox := hinbox
      spaced := by rwa [State.effectiveUpdate_lastTick hu] }
  exact ⟨t, (step_cons h.inbox).trans ht, hrest,
    (hinv.with_tick hadm).updatesToSilence_effectiveUpdate hrest.inv hcount h.resync hgap hu⟩

/-- A run of any machine goes on from where its first step leads. -/
theorem run_succ_of_step {M : Host.Core} {a b : M.State} (h : M.step a = .next b) (k : Nat) : M.run (k + 1) a = M.run k b := by
  rw [Host.Core.run, h]

/-- A run of late updates, as many as it takes, ends with the machine silent. -/
theorem State.SpacedRun.falls_silent {ticks : List U32} (h : s.SpacedRun ticks) (hlen : s.updatesToSilence ≤ ticks.length) :
    ∃ t, Host.Core.run Sys2Proof.core ticks.length s = .next t ∧ t.SpacedRun [] ∧ t.updatesToSilence = 0 := by
  induction ticks generalizing s with
  | nil => exact ⟨s, rfl, h, Nat.le_zero.1 hlen⟩
  | cons tick ticks ih =>
    obtain ⟨u, hu, hrest, hnear⟩ := h.step
    rw [List.length_cons] at hlen ⊢
    rw [run_succ_of_step (M := Sys2Proof.core) hu]
    exact ih hrest (by omega)

/-- Settles O59, by induction over the ticks: each update brings silence nearer by `State.updatesToSilence`, and at 0 the machine,
which is never Paused, is Stopped with every slot free. -/
theorem everyRunFallsSilent : Obligations.EveryRunFallsSilent := by
  intro s ticks hinv hp hr hin hspaced hlen
  have hspacedRun : s.SpacedRun ticks := ⟨hinv, hp, hr, hin, hspaced⟩
  obtain ⟨t, ht, hrun, hzero⟩ := hspacedRun.falls_silent (s.updatesToSilence_le.trans hlen)
  obtain ⟨hstop, hnotes⟩ := State.updatesToSilence_eq_zero_iff.1 hzero
  have hpc : t.pc.toNat = 0 := by simpa [State.paused, hstop] using hrun.not_paused
  exact ⟨t, ht, State.condition_eq_stopped.2 ⟨hstop, BitVec.eq_of_toNat_eq hpc⟩, hnotes, hrun.inbox⟩

end Sys2Proof.Machine
end
